-- ==== Sys2Proof/Word.lean ====
section
/-! DEFINITION. The two bit-vector types of the block: the byte and the 16-bit word (00_scope.md R9). -/

namespace Sys2Proof

/-- An unsigned 8-bit value, 0x00 to 0xFF (R9). -/
abbrev Byte := BitVec 8

/-- An unsigned 16-bit value, 0x0000 to 0xFFFF (R9): the width of `ACC` and of a CRC (R8, R16). -/
abbrev Word := BitVec 16

end Sys2Proof
end

