-- ==== Sys2Proof/Machine/Bytes.lean ====
section
/-! DEFINITION. The sequence primitives of 00_scope.md R11, and the two views of a 16-bit value as its two bytes
(20_memory.md R27, R30). Byte order is decided here, once: the most significant byte comes first. -/

namespace Sys2Proof.Machine

/-- `s[i]`, the byte at index `i`, first byte at 0; every use is at an index below `len(s)`. -/
def byteAt (s : List Byte) (i : Nat) : Byte :=
  s.getD i 0

/-- `s[i..j)`: the bytes at indices `i` up to but not including `j`. -/
def slice (s : List Byte) (i j : Nat) : List Byte :=
  (s.take j).drop i

/-- `be_n(v)`: the `n` big-endian bytes of `v`, used only when `v < 2^(8n)`. -/
def beBytes : Nat → Nat → List Byte
  | 0, _ => []
  | n + 1, v => beBytes n (v / 256) ++ [BitVec.ofNat 8 v]

/-- `from_be(s)`: the number whose big-endian bytes are `s`; 0 for the empty sequence. -/
def fromBe (s : List Byte) : Nat :=
  s.foldl (fun n b => n * 256 + b.toNat) 0

/-- Bits 15 to 8. -/
def highByte (v : Word) : Byte :=
  v.extractLsb' 8 8

/-- Bits 7 to 0. -/
def lowByte (v : Word) : Byte :=
  v.extractLsb' 0 8

/-- `be_2(v)` of a 16-bit value: `[v[15:8], v[7:0]]` (R30). -/
def wordBytes (v : Word) : List Byte :=
  [highByte v, lowByte v]

/-- The 16-bit value with these two bytes, `(hi << 8) XOR lo` (30_encoding.md R49). -/
def wordOfBytes (hi lo : Byte) : Word :=
  hi ++ lo

/-- `bit_length(v)`: the number of bits needed to write `v`, 0 for 0. -/
def bitLength (v : Nat) : Nat :=
  if v = 0 then 0 else v.log2 + 1

end Sys2Proof.Machine
end

