-- ==== Sys2Proof/Machine/Constants.lean ====
section
/-! DEFINITION. The block's hard-wired constants (00_scope.md R8, 10_state.md R21): read-only, no operation changes one. -/

namespace Sys2Proof.Machine

/-- `HEADER`, first byte. -/
def header0 : Byte := 0x7E

/-- `HEADER`, second byte. -/
def header1 : Byte := 0x00

/-- `TYPE_READ` (R44). -/
def typeRead : Byte := 0x07

/-- `TYPE_WRITE`. -/
def typeWrite : Byte := 0x08

/-- `TYPE_CONFIG`. -/
def typeConfig : Byte := 0x09

/-- The greatest register address, `ADDR_BYTES` = 2 bytes wide. -/
def addressMax : Nat := 0xFFFF

/-- `PAYLOAD_MAX_BYTES`: what the one LEN byte can say. -/
def payloadMaxBytes : Nat := 255

/-- The bytes of a command frame beside its payload: HEADER, TYPE, LEN, ADDR, CRC (30_encoding.md R42). -/
def frameOverhead : Nat := 8

/-- `ACK_BYTES`. -/
def ackBytes : Nat := 7

/-- `SCAN_TERMINATOR`, carriage return. -/
def scanTerminator : Byte := 0x0D

/-- `CRC_POLY`. -/
def crcPoly : Word := 0x1021

/-- `CRC_INIT` (90_conflicts.md C1). -/
def crcInit : Word := 0x0000

end Sys2Proof.Machine
end

