-- ==== Sys2Proof/Syntax.lean ====
section
/-! DEFINITION. The instructions: one constructor per row of spec/opcode_table.json, and the raw form in which the
host hands one to the block (30_encoding.md R42, R54). -/

namespace Sys2Proof

/-- What one transport read hands the block (42_decode.md R92). -/
inductive TransportResult where
  /-- the read ended and delivered these bytes, possibly none, possibly fewer than asked -/
  | bytes (s : List Byte)
  /-- the transport reported a timeout and delivered no bytes -/
  | timeout
  /-- the transport failed -/
  | fail
deriving DecidableEq, Repr

/-- The operations of the request op map (R54) and the three command frames (R76, R77, R78). -/
inductive Instr where
  /-- CRC_CLEAR, op 0x0 (40_crc.md R62) -/
  | crcClear
  /-- CRC_UPDATE, op 0x1 (R63): one byte -/
  | crcUpdate (b : Byte)
  /-- CRC_READ, op 0x2 (R64) -/
  | crcRead
  /-- CRC16, op 0x3 (R65): a byte sequence of any length -/
  | crc16 (data : List Byte)
  /-- ENCODE, op 0x4 (41_encode.md R73): a raw type code and two unbounded naturals (D3) -/
  | encode (type : Byte) (address value : Nat)
  /-- DECODE, op 0x5 (42_decode.md R86): a byte sequence of any length -/
  | decode (frame : List Byte)
  /-- ACK_CHECK, op 0x6 (R93): a transport result -/
  | ackCheck (rx : TransportResult)
  /-- SCAN_EXTRACT, op 0x7 (R95): a transport result -/
  | scanExtract (rx : TransportResult)
  /-- RESERVED, op 0x8 to 0xF (30_encoding.md R56): bit 3 of the op code is 1, `low` is its bits 2 to 0 -/
  | reserved (low : BitVec 3)
  /-- READ_FRAME, 7E 00 07 LEN ADDR PAYLOAD CRC (41_encode.md R76, layout R42) -/
  | readFrame (len : Byte) (addr : Word) (payload : List Byte) (crc : Word)
  /-- WRITE_FRAME, 7E 00 08 LEN ADDR PAYLOAD CRC (R77) -/
  | writeFrame (len : Byte) (addr : Word) (payload : List Byte) (crc : Word)
  /-- CONFIG_FRAME, 7E 00 09 LEN ADDR PAYLOAD CRC (R78) -/
  | configFrame (len : Byte) (addr : Word) (payload : List Byte) (crc : Word)
deriving DecidableEq, Repr

/-- One operand of a request, by the kinds R54 names.
DESIGN CHOICE (assumption log 3), safe: R54 calls a request a record and fixes no layout for its operands. -/
inductive Operand where
  /-- one byte: `b`, `type` -/
  | byte (b : Byte)
  /-- a byte sequence: `data`, `frame` -/
  | bytes (s : List Byte)
  /-- a natural number: `address`, `value` -/
  | nat (n : Nat)
  /-- a transport result: `rx` -/
  | result (rx : TransportResult)
deriving DecidableEq, Repr

/-- A request as the host issues it: a 4-bit operation code and operands in the order R54 lists them. -/
structure Request where
  op : BitVec 4
  operands : List Operand
deriving DecidableEq, Repr

/-- What the host hands the block: a request, or the bytes of a frame (the two formats of opcode_table.json). -/
inductive Issue where
  | request (r : Request)
  | frame (f : List Byte)
deriving DecidableEq, Repr

end Sys2Proof
end

