-- ==== Sys2Proof/WellFormed.lean ====
section
/-! DEFINITION. Which instructions are well formed: those that some request or frame is (30_encoding.md R42, R45, R54). -/

namespace Sys2Proof

/-- R42 and R45: a frame's PAYLOAD field has as many bytes as its LEN byte says. -/
def payloadFits (len : Byte) (payload : List Byte) : Bool :=
  payload.length == len.toNat

/-- Every request is well formed whatever its operands: R54 bounds none of them, and an operand out of range is answered
by the operation with an error (R72). A frame is well formed when its payload is as long as LEN says. -/
def WellFormed : Instr → Bool
  | .crcClear => true
  | .crcUpdate _ => true
  | .crcRead => true
  | .crc16 _ => true
  | .encode _ _ _ => true
  | .decode _ => true
  | .ackCheck _ => true
  | .scanExtract _ => true
  | .reserved _ => true
  | .readFrame len _ payload _ => payloadFits len payload
  | .writeFrame len _ payload _ => payloadFits len payload
  | .configFrame len _ payload _ => payloadFits len payload

end Sys2Proof
end

