-- ==== Sys2Proof/Decode.lean ====
section
/-! DEFINITION. From what the host hands the block to an instruction, rejecting by name (30_encoding.md R42, R49, R54,
R56), and after it the encoder from the same tables, and the reading of a word of spec/opcode_table.json. -/

namespace Sys2Proof

open Sys2Proof.Machine

/-- Why something the host hands over is no instruction of the table. -/
inductive Reject where
  /-- a request whose operands are not those its operation takes -/
  | malformedRequest (op : BitVec 4)
  /-- fewer than the 8 bytes of a frame with no payload (R42) -/
  | shortFrame
  /-- the first two bytes are not 7E 00 -/
  | badHeader
  /-- the byte count is not 8 + LEN (R50) -/
  | lengthMismatch
  /-- a TYPE byte that selects no verb (R44) -/
  | undefinedType (t : Byte)
deriving DecidableEq, Repr

/-- R54's table, row by row. A reserved code is detected before any operand is looked at (60_exceptions.md R107). -/
def decodeRequest : Request → Except Reject Instr
  | ⟨op, operands⟩ =>
    if op.getLsbD 3 then .ok (.reserved (op.setWidth 3))
    else match op.toNat, operands with
      | 0, [] => .ok .crcClear
      | 1, [.byte b] => .ok (.crcUpdate b)
      | 2, [] => .ok .crcRead
      | 3, [.bytes data] => .ok (.crc16 data)
      | 4, [.byte type, .nat address, .nat value] => .ok (.encode type address value)
      | 5, [.bytes frame] => .ok (.decode frame)
      | 6, [.result rx] => .ok (.ackCheck rx)
      | 7, [.result rx] => .ok (.scanExtract rx)
      | _, _ => .error (.malformedRequest op)

/-- The three TYPE rows of the frame format, with the fields at R49's offsets. -/
def decodeFrameRow (f : List Byte) : Except Reject Instr :=
  if f.length < frameOverhead then .error .shortFrame
  else if byteAt f 0 ≠ header0 ∨ byteAt f 1 ≠ header1 then .error .badHeader
  else
    let len := byteAt f 3
    let n := len.toNat
    if f.length ≠ frameOverhead + n then .error .lengthMismatch
    else
      let addr := wordOfBytes (byteAt f 4) (byteAt f 5)
      let payload := slice f 6 (6 + n)
      let crc := wordOfBytes (byteAt f (6 + n)) (byteAt f (7 + n))
      if byteAt f 2 = typeRead then .ok (.readFrame len addr payload crc)
      else if byteAt f 2 = typeWrite then .ok (.writeFrame len addr payload crc)
      else if byteAt f 2 = typeConfig then .ok (.configFrame len addr payload crc)
      else .error (.undefinedType (byteAt f 2))

/-- The instruction the host hands over, or why it is none. -/
def decode : Issue → Except Reject Instr
  | .request r => decodeRequest r
  | .frame f => decodeFrameRow f

/-- The bytes of a frame with these fields, in R42's order. -/
def frameBytes (type len : Byte) (addr : Word) (payload : List Byte) (crc : Word) : List Byte :=
  [header0, header1, type, len] ++ wordBytes addr ++ payload ++ wordBytes crc

/-- The request or frame that is this instruction (R42, R54). -/
def encode : Instr → Issue
  | .crcClear => .request ⟨0x0, []⟩
  | .crcUpdate b => .request ⟨0x1, [.byte b]⟩
  | .crcRead => .request ⟨0x2, []⟩
  | .crc16 data => .request ⟨0x3, [.bytes data]⟩
  | .encode type address value => .request ⟨0x4, [.byte type, .nat address, .nat value]⟩
  | .decode frame => .request ⟨0x5, [.bytes frame]⟩
  | .ackCheck rx => .request ⟨0x6, [.result rx]⟩
  | .scanExtract rx => .request ⟨0x7, [.result rx]⟩
  | .reserved low => .request ⟨1#1 ++ low, []⟩
  | .readFrame len addr payload crc => .frame (frameBytes typeRead len addr payload crc)
  | .writeFrame len addr payload crc => .frame (frameBytes typeWrite len addr payload crc)
  | .configFrame len addr payload crc => .frame (frameBytes typeConfig len addr payload crc)

/-- The operands of zeros that go with an op code when a word gives the op code alone: a zero byte, an empty sequence, the
number 0, and for a transport result the delivery of no bytes.
DESIGN CHOICE (assumption log 4), safe: it only reads the host's table words. -/
def zeroOperands (op : BitVec 4) : List Operand :=
  match op.toNat with
  | 1 => [.byte 0]
  | 3 => [.bytes []]
  | 4 => [.byte 0, .nat 0, .nat 0]
  | 5 => [.bytes []]
  | 6 => [.result (.bytes [])]
  | 7 => [.result (.bytes [])]
  | _ => []

/-- What the host hands over when the table's word for it is `w`. A word of one byte is a request's op field (its upper
bits lie outside `op[3:0]`); a longer word is the first bytes of a frame, most significant first as the table's frame rows
say, and zeros follow up to the length its LEN byte gives. DESIGN CHOICE (assumption log 4), safe. -/
def issueOfWord (nbits w : Nat) : Issue :=
  if nbits ≤ 8 then
    let op := BitVec.ofNat 4 w
    .request ⟨op, zeroOperands op⟩
  else
    let start := beBytes (nbits / 8) w
    let total := frameOverhead + (byteAt start 3).toNat
    .frame (start ++ List.replicate (total - start.length) 0)

/-- The instruction the decoder reads from a word of spec/opcode_table.json, none where it refuses. -/
def decodeTableWord (nbits w : Nat) : Option Instr :=
  match decode (issueOfWord nbits w) with
  | .ok i => some i
  | .error _ => none

end Sys2Proof
end

