-- ==== Sys2Proof/Config.lean ====
section
/-! DEFINITION. What the spec leaves OPEN (00_scope.md R8): the acknowledgement policy, as plain data, and the host's
choice for CONFIGURE. The parameters R8 gives values are in Machine/Constants.lean and Machine/Table.lean. -/

namespace Sys2Proof

/-- `ACK_ACCEPT`, the OPEN predicate on 7-byte sequences (42_decode.md R94), as plain data: the sequences it refuses. There
are finitely many 7-byte sequences, so every predicate on them is one of these.
DESIGN CHOICE (assumption log 6), safe: the field is free, so a statement about every state holds under every policy. -/
structure AckPolicy where
  refuses : List (List Byte)
deriving DecidableEq, Repr

/-- `STRICT_CONFIGURE`, the host's OPEN choice at a failed acknowledgement (41_encode.md R85, D30; assumption log 14). -/
inductive ConfigureMode where
  /-- true: the host stops CONFIGURE at the first ACK_CHECK that returns an error -/
  | strict
  /-- false, the source's behaviour: the host goes on -/
  | bestEffort
deriving DecidableEq, Repr

end Sys2Proof
end

