-- ==== Sys2Proof/Machine/State.lean ====
section
/-! DEFINITION. The machine's state as plain data: the block's one register, the OPEN acknowledgement policy, the
responses, and the host's side of the interface. -/

namespace Sys2Proof.Machine

/-- The status of a response, by name (30_encoding.md R58); codes 0x6 to 0xF are never returned and have no name (I9). -/
inductive Status where
  | ok
  | encodingError
  | protocolError
  | timeoutError
  | transportError
  | illegalOp
deriving DecidableEq, Repr

/-- The reason of a response, by name (R58). The two reasons R58 calls BAD_TYPE are `badTypeCode` (0x01, ENCODE) and
`badTypeFrame` (0x15, DECODE). -/
inductive Reason where
  | none
  | badTypeCode
  | addressRange
  | payloadTooLong
  /-- for a host front end only, never the block (I10; assumption log 10) -/
  | negativeOperand
  | shortFrame
  | badHeader
  | lengthMismatch
  | badCrc
  | badTypeFrame
  | zeroLength
  | nonCanonical
  | shortAck
  | longAck
  | ackRejected
  | noTerminator
  | transportTimeout
  | transportFail
  | reservedOp
deriving DecidableEq, Repr

/-- The data of a response: the operation's result on success, the diagnostic of R58 on an error.
DESIGN CHOICE (assumption log 15), safe: R57 names the data and fixes no layout. -/
inductive Data where
  /-- nothing: OK(), and the diagnostics R58 lists as none -/
  | empty
  /-- CRC_READ and CRC16: the value and its two big-endian bytes -/
  | crc (value : Word) (bytes : List Byte)
  /-- ENCODE: the frame -/
  | frame (f : List Byte)
  /-- DECODE: type, address, value -/
  | command (type : Byte) (address value : Nat)
  /-- ACK_CHECK, and the diagnostic of ACK_REJECTED: the 7 bytes -/
  | ack (s : List Byte)
  /-- SCAN_EXTRACT: the payload and the unconsumed remainder -/
  | scan (payload remainder : List Byte)
  /-- the type code of a BAD_TYPE -/
  | typeCode (c : Byte)
  /-- a byte count, or the address of an ADDRESS_RANGE -/
  | number (n : Nat)
  /-- bytes 0 and 1 of a BAD_HEADER -/
  | header (b0 b1 : Byte)
  /-- the expected and the actual byte count of a LENGTH_MISMATCH -/
  | lengths (expected actual : Nat)
  /-- the received and the computed CRC of a BAD_CRC -/
  | crcs (received computed : Word)
  /-- the op code of a RESERVED_OP -/
  | opCode (op : BitVec 4)
deriving DecidableEq, Repr

/-- A response: a record of three parts (R57). -/
structure Response where
  status : Status
  reason : Reason
  data : Data
deriving DecidableEq, Repr

/-- One line of a host program (00_scope.md R13, 30_encoding.md R59). -/
inductive HostLine where
  /-- a block operation with its operands written out, or a frame handed to the block -/
  | issue (x : Issue)
  /-- `host.write <frame>`: write the frame the last ENCODE gave -/
  | write
  /-- `host.read_exact 7 -> rx` -/
  | readExact7
  /-- `host.read_until 0x0D -> rx` -/
  | readUntilTerminator
  /-- `ACK_CHECK rx`, of the host variable rx -/
  | ackCheckRx
  /-- `SCAN_EXTRACT rx`, of the host variable rx -/
  | scanExtractRx
  /-- under STRICT_CONFIGURE: leave out the next `lines` lines when the last response is an error (41_encode.md R85) -/
  | stopOnError (lines : Nat)
  /-- a reset between two operations (70_reset_and_hazards.md R119) -/
  | reset
deriving DecidableEq, Repr

/-- The two response shapes a device sends (30_encoding.md R52, R53), and so the two ways a host reads one
(70_reset_and_hazards.md R123). -/
inductive ResponseShape where
  /-- an acknowledgement, read with `host.read_exact 7` -/
  | ack
  /-- a scan result, read with `host.read_until 0x0D` -/
  | scan
deriving DecidableEq, Repr

/-- The host's side of the transport: the MODEL's own, not the block's (10_state.md R25; assumption log 8). -/
structure HostSide where
  /-- transport results not yet read, oldest first: an input, with any content (42_decode.md R92) -/
  incoming : List TransportResult
  /-- the host variable `rx`, the last transport result -/
  rx : Option TransportResult
  /-- the frames handed to `host.write`, oldest first -/
  wire : List (List Byte)
  /-- the shape of the one response that a written command still waits for, if one does (70_reset_and_hazards.md R123) -/
  awaiting : Option ResponseShape
deriving DecidableEq, Repr

/-- The machine. `acc` is the block's whole state (10_state.md R26); the other fields are its OPEN parameter and the
interface, listed in INVENTORY.md as the model's own. -/
structure State where
  /-- `ACC`, the CRC accumulator (R15) -/
  acc : Word
  /-- `ACK_ACCEPT` (42_decode.md R94; assumption log 6); no operation writes it -/
  ackPolicy : AckPolicy
  /-- every response so far, oldest first (70_reset_and_hazards.md R124; assumption log 1) -/
  responses : List Response
  /-- the host's lines still to come, next first (20_memory.md R38; assumption log 2) -/
  program : List HostLine
  host : HostSide
deriving DecidableEq, Repr

/-- Where a host program is stuck: a line whose operand does not exist. Raised by `runHostLine` alone, never by `exec`; the
block has no fault of its own (60_exceptions.md R98). -/
inductive Fault where
  /-- `host.write` when the last ENCODE gave no frame, or there was none (41_encode.md R75: "A host therefore has nothing to write to the
  transport"). Safe: the machine stops where nothing is defined. -/
  | nothingToWrite
  /-- `ACK_CHECK rx` or `SCAN_EXTRACT rx` before any read. Safe, for the same reason. -/
  | noTransportResult
deriving DecidableEq, Repr

/-- What has no meaning. -/
inductive Refusal where
  /-- an instruction without a meaning, by name; no arm of `exec` says so. Safe. -/
  | notModelled (mnemonic : String)
  /-- raised by `runHostLine`: a request whose operands are not those its operation takes (30_encoding.md R54). Safe: the
  model stops on what is no request (assumption log 3). -/
  | malformedRequest (op : BitVec 4)
  /-- raised by `runHostLine`: a second command written before the first one's response was read
  (70_reset_and_hazards.md R123, I15: refuse). Safe (assumption log 9). -/
  | overlappedCommand
  /-- raised by `runHostLine`: a read with no written command waiting for one (R123, I15: refuse). Safe (assumption log 9). -/
  | readWithoutCommand
  /-- raised by `runHostLine`: a read of the other shape than the written command's response has (R123, response shape; I15:
  refuse). Safe (assumption log 9). -/
  | wrongResponseShape
deriving DecidableEq, Repr

/-- 70_reset_and_hazards.md R116, R118: `ACC` is 0x0000. The acknowledgement policy is R94's default, which accepts every
sequence. The interface is empty: nothing issued, nothing answered, nothing written
(DESIGN CHOICE, assumption log 17, unsafe only for a claim that starts at reset and counts on an empty interface). -/
def State.reset : State where
  acc := 0x0000
  ackPolicy := ⟨[]⟩
  responses := []
  program := []
  host := { incoming := [], rx := none, wire := [], awaiting := none }

end Sys2Proof.Machine
end

