-- ==== Sys2Proof/Machine/Ops.lean ====
section
/-! DEFINITION. How an operation ends (00_scope.md R12): with a result or with an error, the block's whole exception
mechanism (60_exceptions.md R98). Nothing returns from an error, because nothing was entered (R100). -/

namespace Sys2Proof.Machine

/-- `respond OK(data)`. -/
def respondOk (data : Data) : Response :=
  ⟨.ok, .none, data⟩

/-- `raise <Error>(<REASON>, info)`. -/
def raise (error : Status) (reason : Reason) (info : Data) : Response :=
  ⟨error, reason, info⟩

/-- `ACC <- v`. -/
def setAcc (v : Word) (s : State) : State :=
  { s with acc := v }

/-- The response leaves the block: it is the next of the responses (70_reset_and_hazards.md R124). -/
def deliver (r : Response) (s : State) : State :=
  { s with responses := s.responses ++ [r] }

/-- The end of every operation, successful or not: the response is delivered and nothing else is written. A failing
operation leaves `ACC` as it was (60_exceptions.md R99). -/
def finish (r : Response) (s : State) : Host.Outcome State Fault Refusal :=
  .next (deliver r s)

end Sys2Proof.Machine
end

