-- ==== Sys2Proof/Machine/Crc.lean ====
section
/-! DEFINITION. The Checksum Engine (40_crc.md): its one-byte step and its four operations. -/

namespace Sys2Proof.Machine

/-- `crc_step` (R61). The 16-bit type is the `AND 0xFFFF`; `c[15:8] XOR b` indexes the ROM. -/
def crcStep (c : Word) (b : Byte) : Word :=
  (c <<< 8) ^^^ table (highByte c ^^^ b)

/-- The running value `c` after the bytes of `data`, in index order (R67). -/
def crcFold (c : Word) (data : List Byte) : Word :=
  data.foldl crcStep c

/-- The CRC of a whole sequence, from `CRC_INIT`, in an accumulator of its own (R65, 10_state.md R24). -/
def crcOf (data : List Byte) : Word :=
  crcFold crcInit data

/-- The result of CRC_READ and CRC16: the value and its two big-endian bytes (R64, R65). -/
def crcResult (c : Word) : Response :=
  respondOk (.crc c (wordBytes c))

/-- CRC_CLEAR (R62). -/
def execCrcClear (s : State) : Host.Outcome State Fault Refusal :=
  finish (respondOk .empty) (setAcc crcInit s)

/-- CRC_UPDATE (R63). -/
def execCrcUpdate (b : Byte) (s : State) : Host.Outcome State Fault Refusal :=
  finish (respondOk .empty) (setAcc (crcStep s.acc b) s)

/-- CRC_READ (R64). -/
def execCrcRead (s : State) : Host.Outcome State Fault Refusal :=
  finish (crcResult s.acc) s

/-- CRC16 (R65). `ACC` is neither read nor written. -/
def execCrc16 (data : List Byte) (s : State) : Host.Outcome State Fault Refusal :=
  finish (crcResult (crcOf data)) s

end Sys2Proof.Machine
end

