-- ==== Sys2Proof/Machine/Operands.lean ====
section
/-! DEFINITION. The conditions the operations put on their operands: the type code (30_encoding.md R44), the payload
length (41_encode.md R71), the acknowledgement policy (42_decode.md R94), the terminator (R95). -/

namespace Sys2Proof.Machine

/-- R44: READ, WRITE and CONFIG are the defined type codes. -/
def typeDefined (t : Byte) : Bool :=
  t == typeRead || t == typeWrite || t == typeConfig

/-- R71: `payload_len(v) = max(1, ceil(bit_length(v) / 8))` (90_conflicts.md C2). -/
def payloadLen (v : Nat) : Nat :=
  max 1 ((bitLength v + 7) / 8)

/-- `ACK_ACCEPT(s)` under this policy (R94). -/
def ackAccept (p : AckPolicy) (s : List Byte) : Bool :=
  !p.refuses.contains s

/-- The least index at which the scan terminator stands, if any (R95, R97). -/
def terminatorIndex (s : List Byte) : Option Nat :=
  s.findIdx? (· == scanTerminator)

end Sys2Proof.Machine
end

