-- ==== Sys2Proof/Machine/Decoder.lean ====
section
/-! DEFINITION. The command-frame parser and validator (42_decode.md R86 to R91). -/

namespace Sys2Proof.Machine

/-- The checks of R86 on a frame whose structure holds, `n` being its LEN: the CRC, the type code, LEN = 0, minimality. -/
def decodeContents (f : List Byte) (n : Nat) : Response :=
  let computed := crcOf (slice f 2 (6 + n))
  let received := wordOfBytes (byteAt f (6 + n)) (byteAt f (7 + n))
  if received ≠ computed then raise .protocolError .badCrc (.crcs received computed)
  else if !typeDefined (byteAt f 2) then raise .protocolError .badTypeFrame (.typeCode (byteAt f 2))
  else if n = 0 then raise .protocolError .zeroLength .empty
  else if 1 < n ∧ byteAt f 6 = 0x00 then raise .protocolError .nonCanonical .empty
  else respondOk (.command (byteAt f 2) (fromBe (slice f 4 6)) (fromBe (slice f 6 (6 + n))))

/-- DECODE as a function of the byte sequence (R86): the structure is checked first (R87). -/
def decodeResponse (f : List Byte) : Response :=
  if f.length < frameOverhead then raise .protocolError .shortFrame (.number f.length)
  else if byteAt f 0 ≠ header0 ∨ byteAt f 1 ≠ header1 then
    raise .protocolError .badHeader (.header (byteAt f 0) (byteAt f 1))
  else
    let n := (byteAt f 3).toNat
    if f.length ≠ frameOverhead + n then raise .protocolError .lengthMismatch (.lengths (frameOverhead + n) f.length)
    else decodeContents f n

/-- DECODE (R86). -/
def execDecode (frame : List Byte) (s : State) : Host.Outcome State Fault Refusal :=
  finish (decodeResponse frame) s

end Sys2Proof.Machine
end

