-- ==== Sys2Proof/Machine/Encoder.lean ====
section
/-! DEFINITION. The frame encoder (41_encode.md). -/

namespace Sys2Proof.Machine

/-- Step 2 of R73: TYPE, LEN, ADDR, PAYLOAD. -/
def commandBody (type : Byte) (address value : Nat) : List Byte :=
  [type, BitVec.ofNat 8 (payloadLen value)] ++ beBytes 2 address ++ beBytes (payloadLen value) value

/-- Steps 2 to 4 of R73: HEADER, the body, and the body's CRC (30_encoding.md R42, R43). -/
def commandFrame (type : Byte) (address value : Nat) : List Byte :=
  let body := commandBody type address value
  [header0, header1] ++ body ++ wordBytes (crcOf body)

/-- ENCODE as a function of its three operands alone (R74): the checks of R72 in their order, then the frame. -/
def encodeResponse (type : Byte) (address value : Nat) : Response :=
  if !typeDefined type then raise .encodingError .badTypeCode (.typeCode type)
  else if addressMax < address then raise .encodingError .addressRange (.number address)
  else if payloadMaxBytes < payloadLen value then raise .encodingError .payloadTooLong (.number (payloadLen value))
  else respondOk (.frame (commandFrame type address value))

/-- ENCODE (R73). -/
def execEncode (type : Byte) (address value : Nat) (s : State) : Host.Outcome State Fault Refusal :=
  finish (encodeResponse type address value) s

end Sys2Proof.Machine
end

