-- ==== Sys2Proof/Machine/Frames.lean ====
section
/-! DEFINITION. The three command frames as instructions (41_encode.md R76, R77, R78). The one thing the block does with a
frame it is handed is to DECODE it: "DECODE returns type 0x07 for it".
DESIGN CHOICE (assumption log 5), safe: what the device does with a frame is not in the source and not in the model. -/

namespace Sys2Proof.Machine

/-- A READ frame handed to the block (R76). -/
def execReadFrame (len : Byte) (addr : Word) (payload : List Byte) (crc : Word) (s : State) :
    Host.Outcome State Fault Refusal :=
  finish (decodeResponse (frameBytes typeRead len addr payload crc)) s

/-- A WRITE frame handed to the block (R77). -/
def execWriteFrame (len : Byte) (addr : Word) (payload : List Byte) (crc : Word) (s : State) :
    Host.Outcome State Fault Refusal :=
  finish (decodeResponse (frameBytes typeWrite len addr payload crc)) s

/-- A CONFIG frame handed to the block (R78). -/
def execConfigFrame (len : Byte) (addr : Word) (payload : List Byte) (crc : Word) (s : State) :
    Host.Outcome State Fault Refusal :=
  finish (decodeResponse (frameBytes typeConfig len addr payload crc)) s

end Sys2Proof.Machine
end

