-- ==== Sys2Proof/Machine/Reserved.lean ====
section
/-! DEFINITION. The reserved operation codes 0x8 to 0xF (30_encoding.md R56, 60_exceptions.md R105). -/

namespace Sys2Proof.Machine

/-- A reserved code changes no state and is answered with ILLEGAL_OP, RESERVED_OP and the code (R56, R105). -/
def execReserved (low : BitVec 3) (s : State) : Host.Outcome State Fault Refusal :=
  finish (raise .illegalOp .reservedOp (.opCode (1#1 ++ low))) s

end Sys2Proof.Machine
end

