-- ==== Sys2Proof/Machine/Response.lean ====
section
/-! DEFINITION. The checks of the two response shapes a device sends: the acknowledgement and the scan result
(42_decode.md R92 to R97). -/

namespace Sys2Proof.Machine

/-- ACK_CHECK under an acknowledgement policy (R93). -/
def ackResponse (policy : AckPolicy) : TransportResult → Response
  | .fail => raise .transportError .transportFail .empty
  | .timeout => raise .timeoutError .transportTimeout .empty
  | .bytes s =>
    if s.length < ackBytes then raise .protocolError .shortAck (.number s.length)
    else if ackBytes < s.length then raise .protocolError .longAck (.number s.length)
    else if !ackAccept policy s then raise .protocolError .ackRejected (.ack s)
    else respondOk (.ack s)

/-- ACK_CHECK (R93). -/
def execAckCheck (rx : TransportResult) (s : State) : Host.Outcome State Fault Refusal :=
  finish (ackResponse s.ackPolicy rx) s

/-- SCAN_EXTRACT (R95): the bytes before the first terminator, and the bytes after it (R97). -/
def scanResponse : TransportResult → Response
  | .fail => raise .transportError .transportFail .empty
  | .timeout => raise .timeoutError .transportTimeout .empty
  | .bytes s =>
    match terminatorIndex s with
    | none => raise .timeoutError .noTerminator (.number s.length)
    | some k => respondOk (.scan (s.take k) (s.drop (k + 1)))

/-- SCAN_EXTRACT (R95). -/
def execScanExtract (rx : TransportResult) (s : State) : Host.Outcome State Fault Refusal :=
  finish (scanResponse rx) s

end Sys2Proof.Machine
end

