-- ==== Sys2Proof/Machine/Dispatch.lean ====
section
/-! DEFINITION. One arm per instruction, each one call of that instruction's meaning. -/

namespace Sys2Proof.Machine

/-- One operation, a function from the state and the request to the next state and the response (10_state.md R26). -/
def exec (i : Instr) (s : State) : Host.Outcome State Fault Refusal :=
  match i with
  | .crcClear => Sys2Proof.Machine.execCrcClear s
  | .crcUpdate b => Sys2Proof.Machine.execCrcUpdate b s
  | .crcRead => Sys2Proof.Machine.execCrcRead s
  | .crc16 data => Sys2Proof.Machine.execCrc16 data s
  | .encode type address value => Sys2Proof.Machine.execEncode type address value s
  | .decode frame => Sys2Proof.Machine.execDecode frame s
  | .ackCheck rx => Sys2Proof.Machine.execAckCheck rx s
  | .scanExtract rx => Sys2Proof.Machine.execScanExtract rx s
  | .reserved low => Sys2Proof.Machine.execReserved low s
  | .readFrame len addr payload crc => Sys2Proof.Machine.execReadFrame len addr payload crc s
  | .writeFrame len addr payload crc => Sys2Proof.Machine.execWriteFrame len addr payload crc s
  | .configFrame len addr payload crc => Sys2Proof.Machine.execConfigFrame len addr payload crc s

end Sys2Proof.Machine
end

