-- ==== Sys2Proof/Machine/PseudoOps.lean ====
section
/-! DEFINITION. The host's static data and its pseudo-operations as lines (41_encode.md R79 to R85). None of it is the
block's (10_state.md R25): a host program may hold these lines, and the block runs each as any other. -/

namespace Sys2Proof.Machine

/-- The device registers the document lists (R79). -/
inductive KnownRegister where
  | scanMode
  | triggerScan
  | disableAllFormats
  | serialProtocolConfig
  | readFailMessageLength
  | readFailMessage
  | saveConfig
deriving DecidableEq, Repr

/-- The barcode formats with a register of their own (R80). -/
inductive Format where
  | qr
  | dataMatrix
  | pdf417
deriving DecidableEq, Repr

/-- Type, address and value of a known register's command (R79). -/
def registerCommand : KnownRegister → Byte × Nat × Nat
  | .scanMode => (typeWrite, 0x0000, 0xD5)
  | .triggerScan => (typeWrite, 0x0002, 0x01)
  | .disableAllFormats => (typeWrite, 0x002C, 0x00)
  | .serialProtocolConfig => (typeWrite, 0x0060, 0x11)
  | .readFailMessageLength => (typeWrite, 0x0081, 0x02)
  | .readFailMessage => (typeWrite, 0x0082, 0x150D)
  | .saveConfig => (typeConfig, 0x0000, 0x00)

/-- The address of a format's register (R80). -/
def formatAddress : Format → Nat
  | .qr => 0x003F
  | .dataMatrix => 0x0054
  | .pdf417 => 0x0055

/-- The boolean-as-integer payload (R80). -/
def enableValue (enable : Bool) : Nat :=
  if enable then 0x01 else 0x00

/-- ENCODE of a command, then `host.write <frame>`. -/
def sendCommand (c : Byte × Nat × Nat) : List HostLine :=
  [.issue (encode (.encode c.1 c.2.1 c.2.2)), .write]

/-- A command and its acknowledgement: ENCODE, write, read 7 bytes, ACK_CHECK. -/
def ackedCommand (c : Byte × Nat × Nat) : List HostLine :=
  sendCommand c ++ [.readExact7, .ackCheckRx]

/-- TRIGGER_SCAN (R81). -/
def triggerScanLines : List HostLine :=
  sendCommand (registerCommand .triggerScan) ++ [.readUntilTerminator, .scanExtractRx]

/-- DISABLE_ALL_FORMATS (R82, 90_conflicts.md C3). -/
def disableAllFormatsLines : List HostLine :=
  ackedCommand (registerCommand .disableAllFormats)

/-- ENABLE_FORMAT fmt, en (R83). -/
def enableFormatLines (fmt : Format) (enable : Bool) : List HostLine :=
  ackedCommand (typeWrite, formatAddress fmt, enableValue enable)

/-- SAVE_CONFIG (R84). -/
def saveConfigLines : List HostLine :=
  ackedCommand (registerCommand .saveConfig)

/-- The four commands of CONFIGURE, in their order (R85). -/
def configureCommands : List (Byte × Nat × Nat) :=
  [registerCommand .scanMode, registerCommand .serialProtocolConfig, registerCommand .readFailMessageLength,
   registerCommand .readFailMessage]

/-- Acknowledged commands one after another; under `strict` the rest is left out once an acknowledgement fails (R85). -/
def commandSequence (mode : ConfigureMode) : List (Byte × Nat × Nat) → List HostLine
  | [] => []
  | c :: rest =>
    let after := commandSequence mode rest
    match mode with
    | .strict => ackedCommand c ++ .stopOnError after.length :: after
    | .bestEffort => ackedCommand c ++ after

/-- CONFIGURE under `STRICT_CONFIGURE` (R85). -/
def configureLines (mode : ConfigureMode) : List HostLine :=
  commandSequence mode configureCommands

end Sys2Proof.Machine
end

