-- ==== Sys2Proof/Machine/HostLines.lean ====
section
/-! DEFINITION. What one line of a host program does (30_encoding.md R59): a block operation runs its instruction; a
`host.` line acts on the host's side of the transport alone (assumption log 8, 9, 13, 14). -/

namespace Sys2Proof.Machine

/-- What the host hands over runs as the instruction it decodes to. Bytes that are no frame of the table are given to
DECODE, which reports why (42_decode.md R86); a request whose operands are not its operation's is no request (R54). -/
def runIssue (x : Issue) (s : State) : Host.Outcome State Fault Refusal :=
  match decode x, x with
  | .ok i, _ => exec i s
  | .error _, .frame f => exec (.decode f) s
  | .error _, .request r => .refused (.malformedRequest r.op)

/-- What a response says of the frame a host has to write: the frame, when ENCODE gave one; none, when ENCODE raised an error
(41_encode.md R75); nothing, when it is another operation's. -/
def frameNews : Response → Option (Option (List Byte))
  | ⟨.ok, _, .frame f⟩ => some (some f)
  | ⟨.encodingError, _, _⟩ => some none
  | _ => none

/-- The `<frame>` of `host.write`: the one the last ENCODE gave, if it gave one; operations between it and the write do not
matter. -/
def lastFrame (s : State) : Option (List Byte) :=
  (s.responses.reverse.findSome? frameNews).join

/-- Whether the last response is an error. -/
def lastFailed (s : State) : Bool :=
  match s.responses.getLast? with
  | some r => r.status != .ok
  | none => false

/-- The one command whose response is a scan result: TRIGGER_SCAN's frame (41_encode.md R81). -/
def triggerScanFrame : List Byte :=
  let c := registerCommand .triggerScan
  commandFrame c.1 c.2.1 c.2.2

/-- The shape of the response to a command: a scan result after TRIGGER_SCAN, an acknowledgement after every other
(70_reset_and_hazards.md R123). -/
def responseShape (command : List Byte) : ResponseShape :=
  if command = triggerScanFrame then .scan else .ack

/-- One transport read (42_decode.md R92): the next transport result becomes `rx`. When nothing is left to arrive the read
ends at its timeout, as 70_reset_and_hazards.md R123 bounds every read by one.
DEDUCED (assumption log 8), safe but for a claim about a read from an empty list: every result can stand in `incoming`. -/
def readTransport (s : State) : State :=
  { s with host := { s.host with
      incoming := s.host.incoming.tail
      rx := some (s.host.incoming.headD .timeout)
      awaiting := none } }

/-- `host.write <frame>`: the frame is the next on the wire and its response is awaited. -/
def writeWire (f : List Byte) (s : State) : State :=
  { s with host := { s.host with wire := s.host.wire ++ [f], awaiting := some (responseShape f) } }

/-- A read of the one response to the command written before it, in that response's shape (R123). -/
def runRead (shape : ResponseShape) (s : State) : Host.Outcome State Fault Refusal :=
  match s.host.awaiting with
  | none => .refused .readWithoutCommand
  | some expected => if shape = expected then .next (readTransport s) else .refused .wrongResponseShape

/-- A write of a command frame, none other being in flight (R123). -/
def runWrite (s : State) : Host.Outcome State Fault Refusal :=
  match lastFrame s with
  | none => .fault .nothingToWrite
  | some f => if s.host.awaiting.isSome then .refused .overlappedCommand else .next (writeWire f s)

/-- One line of a host program, the line itself being taken off already. -/
def runHostLine (line : HostLine) (s : State) : Host.Outcome State Fault Refusal :=
  match line with
  | .issue x => runIssue x s
  | .write => runWrite s
  | .readExact7 => runRead .ack s
  | .readUntilTerminator => runRead .scan s
  | .ackCheckRx =>
    match s.host.rx with
    | some rx => exec (.ackCheck rx) s
    | none => .fault .noTransportResult
  | .scanExtractRx =>
    match s.host.rx with
    | some rx => exec (.scanExtract rx) s
    | none => .fault .noTransportResult
  | .stopOnError lines => .next (if lastFailed s then { s with program := s.program.drop lines } else s)
  | .reset => .next (setAcc State.reset.acc s)

/-- The host's next line, one a step, in issue order (20_memory.md R38). With nothing issued nothing happens: the block
never starts an action by itself (60_exceptions.md R108; assumption log 2). -/
def stepHost (s : State) : Host.Outcome State Fault Refusal :=
  match s.program with
  | [] => .next s
  | line :: rest => runHostLine line { s with program := rest }

/-- `x` as the host's next line, everything else as it was. -/
def putNext (x : Issue) (s : State) : State :=
  { s with program := .issue x :: s.program }

end Sys2Proof.Machine
end

