-- ==== Sys2Proof/Machine/Step.lean ====
section
/-! DEFINITION. One step of the machine, and where it takes its next instruction from. -/

namespace Sys2Proof.Machine

/-- One step: the host's next line. -/
def step (s : State) : Host.Outcome State Fault Refusal :=
  stepHost s

/-- `s` with the instruction of this table word as the host's next line (assumption log 2, 4). -/
def State.withFetchWord (s : State) (nbits w : Nat) : State :=
  putNext (issueOfWord nbits w) s

end Sys2Proof.Machine
end

