-- ==== Sys2Proof/Machine/Flags.lean ====
section
/-! DEFINITION. The block has no flags (10_state.md R22, R23). What an operation reports beside its data is a status and
a reason: their numbers, and which status each reason belongs to, as 30_encoding.md R58 tabulates them. -/

namespace Sys2Proof.Machine

/-- `status[3:0]` of R58. -/
def statusCode : Status → BitVec 4
  | .ok => 0x0
  | .encodingError => 0x1
  | .protocolError => 0x2
  | .timeoutError => 0x3
  | .transportError => 0x4
  | .illegalOp => 0x5

/-- `reason[7:0]` of R58. -/
def reasonCode : Reason → Byte
  | .none => 0x00
  | .badTypeCode => 0x01
  | .addressRange => 0x02
  | .payloadTooLong => 0x03
  | .negativeOperand => 0x04
  | .shortFrame => 0x11
  | .badHeader => 0x12
  | .lengthMismatch => 0x13
  | .badCrc => 0x14
  | .badTypeFrame => 0x15
  | .zeroLength => 0x16
  | .nonCanonical => 0x17
  | .shortAck => 0x21
  | .longAck => 0x22
  | .ackRejected => 0x23
  | .noTerminator => 0x31
  | .transportTimeout => 0x32
  | .transportFail => 0x41
  | .reservedOp => 0x51

/-- The status a reason is listed under in R58. -/
def reasonStatus : Reason → Status
  | .none => .ok
  | .badTypeCode | .addressRange | .payloadTooLong | .negativeOperand => .encodingError
  | .shortFrame | .badHeader | .lengthMismatch | .badCrc | .badTypeFrame | .zeroLength | .nonCanonical => .protocolError
  | .shortAck | .longAck | .ackRejected => .protocolError
  | .noTerminator | .transportTimeout => .timeoutError
  | .transportFail => .transportError
  | .reservedOp => .illegalOp

end Sys2Proof.Machine
end

