-- ==== Sys2Proof/Safety.lean ====
section
/-! DEFINITION. What a legal response and a legal state are, in the terms the claims use: the canonical frames of
42_decode.md R88, the table of 30_encoding.md R58, and the invariant every step keeps; and the spec's own independent forms
of what the machine computes: the document's recurrence on numbers (R61) and bit-at-a-time division (R70). -/

namespace Sys2Proof.Machine

/-- R88's checks, for a byte sequence: exactly 8 + N bytes, header 7E 00, a defined type code, 1 ≤ N, a minimal payload, and
the CRC of the body in the last two bytes. -/
def canonicalFrame (f : List Byte) : Bool :=
  let n := (byteAt f 3).toNat
  f.length == frameOverhead + n && f.take 2 == [header0, header1] && typeDefined (byteAt f 2) && decide (1 ≤ n)
    && (n == 1 || byteAt f 6 != 0x00) && f.drop (6 + n) == wordBytes (crcOf (slice f 2 (6 + n)))

/-- R58's rows: the reason is listed under the status, and the data is what the row names, within the bounds that make the
operation give it. NEGATIVE_OPERAND is in no legal response (I10). -/
def legalResponse (r : Response) : Bool :=
  r.status == reasonStatus r.reason &&
  match r.reason, r.data with
  | .none, .empty => true
  | .none, .crc v bs => bs == wordBytes v
  | .none, .frame f => canonicalFrame f
  | .none, .command t a v => typeDefined t && decide (a ≤ addressMax) && decide (payloadLen v ≤ payloadMaxBytes)
  | .none, .ack s => s.length == ackBytes
  | .none, .scan p _ => !p.contains scanTerminator
  | .badTypeCode, .typeCode c => !typeDefined c
  | .addressRange, .number a => decide (addressMax < a)
  | .payloadTooLong, .number n => decide (payloadMaxBytes < n)
  | .shortFrame, .number n => decide (n < frameOverhead)
  | .badHeader, .header a b => a != header0 || b != header1
  | .lengthMismatch, .lengths e n => e != n && decide (frameOverhead ≤ e ∧ e ≤ frameOverhead + payloadMaxBytes ∧ frameOverhead ≤ n)
  | .badCrc, .crcs received computed => received != computed
  | .badTypeFrame, .typeCode c => !typeDefined c
  | .zeroLength, .empty => true
  | .nonCanonical, .empty => true
  | .shortAck, .number n => decide (n < ackBytes)
  | .longAck, .number n => decide (ackBytes < n)
  | .ackRejected, .ack s => s.length == ackBytes
  | .noTerminator, .number _ => true
  | .transportTimeout, .empty => true
  | .transportFail, .empty => true
  | .reservedOp, .opCode c => c.getLsbD 3
  | _, _ => false

/-- The invariant of the machine: every response delivered is one R58 lists, every frame on the wire is a canonical frame
(the block gives out no others, R88), and a response is awaited only after a command was written, in the shape the last
command written calls for (R123). -/
def State.legal (s : State) : Bool :=
  s.responses.all legalResponse && s.host.wire.all canonicalFrame &&
    (s.host.awaiting == none || s.host.awaiting == s.host.wire.getLast?.map responseShape)

/-- The operation is answered with `r` and nothing else changes: it completes, and no state is written but the response. -/
abbrev Answers (i : Instr) (s : State) (r : Response) : Prop :=
  exec i s = .next { s with responses := s.responses ++ [r] }

/-- Operations one after another, each in the state the one before it left (20_memory.md R38). -/
def execAll : List Instr → State → Host.Outcome State Fault Refusal
  | [], s => .next s
  | i :: rest, s =>
    match exec i s with
    | .next t => execAll rest t
    | .fault r => .fault r
    | .refused r => .refused r

/-- The document's recurrence (40_crc.md R61) on plain numbers:
`((crc << 8) XOR table[(crc >> 8) XOR byte]) AND 0xFFFF`. -/
def recurrence (crc : Nat) (b : Byte) : Nat :=
  ((crc <<< 8) ^^^ (rom.getD ((crc >>> 8) ^^^ b.toNat) 0).toNat) &&& 0xFFFF

/-- `compute_crc16` by the recurrence, from the initial value 0x0000 (R65). -/
def recurrenceCrc (data : List Byte) : Nat :=
  data.foldl recurrence 0x0000

/-- The CRC by polynomial division one bit at a time, most significant bit first (R70). -/
def bitwiseCrc (data : List Byte) : Word :=
  data.foldl (fun c b => shiftRounds 8 (c ^^^ ((b.setWidth 16 : Word) <<< 8))) 0x0000

/-- The number whose base-256 digits, most significant first, are these bytes. -/
def bigEndian (s : List Byte) : Nat :=
  Nat.ofDigits 256 (s.reverse.map BitVec.toNat)

/-- The verbs of 30_encoding.md R44. -/
abbrev DefinedType (t : Byte) : Prop :=
  t = 0x07 ∨ t = 0x08 ∨ t = 0x09

/-- The operand triples that have a frame (41_encode.md R72). -/
abbrev LegalCommand (t : Byte) (address value : Nat) : Prop :=
  DefinedType t ∧ address ≤ 0xFFFF ∧ value < 2 ^ 2040

/-- The bytes DECODE examines: its operand, or a frame handed to the block (assumption log 5). -/
def examined : Instr → List Byte
  | .decode f => f
  | .readFrame len addr payload crc => frameBytes typeRead len addr payload crc
  | .writeFrame len addr payload crc => frameBytes typeWrite len addr payload crc
  | .configFrame len addr payload crc => frameBytes typeConfig len addr payload crc
  | _ => []

/-- Whether an operation makes DECODE's checks. -/
def examines : Instr → Bool
  | .decode _ | .readFrame _ _ _ _ | .writeFrame _ _ _ _ | .configFrame _ _ _ _ => true
  | _ => false

/-- The "raised by" and "diagnostic data" columns of R58, for the errors: what an operation that raises this reason reports,
none where it never raises it. NEGATIVE_OPERAND is raised by no operation of the block (I10). -/
def diagnostic (reason : Reason) (i : Instr) : Option Data :=
  match reason, i with
  | .badTypeCode, .encode t _ _ => some (.typeCode t)
  | .addressRange, .encode _ a _ => some (.number a)
  | .payloadTooLong, .encode _ _ v => some (.number (payloadLen v))
  | .shortAck, .ackCheck (.bytes s) => some (.number s.length)
  | .longAck, .ackCheck (.bytes s) => some (.number s.length)
  | .ackRejected, .ackCheck (.bytes s) => some (.ack s)
  | .noTerminator, .scanExtract (.bytes s) => some (.number s.length)
  | .transportTimeout, .ackCheck .timeout => some .empty
  | .transportTimeout, .scanExtract .timeout => some .empty
  | .transportFail, .ackCheck .fail => some .empty
  | .transportFail, .scanExtract .fail => some .empty
  | .reservedOp, .reserved low => some (.opCode (BitVec.ofNat 4 (8 + low.toNat)))
  | reason, i =>
    if examines i then
      let f := examined i
      match reason with
      | .shortFrame => some (.number f.length)
      | .badHeader => some (.header (byteAt f 0) (byteAt f 1))
      | .lengthMismatch => some (.lengths (8 + (byteAt f 3).toNat) f.length)
      | .badCrc =>
        some (.crcs (wordOfBytes (byteAt f (f.length - 2)) (byteAt f (f.length - 1))) (crcOf (slice f 2 (f.length - 2))))
      | .badTypeFrame => some (.typeCode (byteAt f 2))
      | .zeroLength => some .empty
      | .nonCanonical => some .empty
      | _ => none
    else none

/-- "The result" of R58's row OK: what the rule of each operation names as its data (R57). A reserved code has no result. -/
def resultKind (i : Instr) (result : Data) : Bool :=
  match i, result with
  | .crcClear, .empty => true
  | .crcUpdate _, .empty => true
  | .crcRead, .crc _ _ => true
  | .crc16 _, .crc _ _ => true
  | .encode _ _ _, .frame _ => true
  | .decode _, .command _ _ _ => true
  | .ackCheck _, .ack _ => true
  | .scanExtract _, .scan _ _ => true
  | .readFrame _ _ _ _, .command _ _ _ => true
  | .writeFrame _ _ _ _, .command _ _ _ => true
  | .configFrame _ _ _ _, .command _ _ _ => true
  | _, _ => false

/-- The rows of R58: a reason by its name, the status it is listed under, and the two numbers. NEGATIVE_OPERAND's row, which
the block never returns, is left out. -/
def statusRows : List (Reason × Status × BitVec 4 × Byte) :=
  [(.none, .ok, 0x0, 0x00), (.badTypeCode, .encodingError, 0x1, 0x01), (.addressRange, .encodingError, 0x1, 0x02),
   (.payloadTooLong, .encodingError, 0x1, 0x03), (.shortFrame, .protocolError, 0x2, 0x11),
   (.badHeader, .protocolError, 0x2, 0x12), (.lengthMismatch, .protocolError, 0x2, 0x13), (.badCrc, .protocolError, 0x2, 0x14),
   (.badTypeFrame, .protocolError, 0x2, 0x15), (.zeroLength, .protocolError, 0x2, 0x16),
   (.nonCanonical, .protocolError, 0x2, 0x17), (.shortAck, .protocolError, 0x2, 0x21), (.longAck, .protocolError, 0x2, 0x22),
   (.ackRejected, .protocolError, 0x2, 0x23), (.noTerminator, .timeoutError, 0x3, 0x31),
   (.transportTimeout, .timeoutError, 0x3, 0x32), (.transportFail, .transportError, 0x4, 0x41),
   (.reservedOp, .illegalOp, 0x5, 0x51)]

/-- A response of R58: its reason, its status and their numbers are one row; an error carries the diagnostic that row names
for this operation, a success a result of the operation's kind. -/
def FollowsTable (i : Instr) (r : Response) : Prop :=
  (r.reason, r.status, statusCode r.status, reasonCode r.reason) ∈ statusRows ∧
  (r.reason ≠ .none → diagnostic r.reason i = some r.data) ∧
  (r.reason = .none → resultKind i r.data = true) ∧ legalResponse r = true

end Sys2Proof.Machine
end

