-- ==== Sys2Proof/Certificates/Slice0/Obligations.lean ====
section
/-! DEFINITION. The statements for the provers, each from the rules of spec/ it names. A statement marked "derived" rests on
what the spec itself marks as derived, as general knowledge or as an inference, or on a choice of the model that an entry of
the assumption log names. -/

open Sys2Proof Sys2Proof.Machine

/-! ## Reset and the lookup ROM -/

/-- R116: "At reset `ACC <- 0x0000`, which is `CRC_INIT`. After reset, a host may start an incremental CRC with CRC_UPDATE
without a CRC_CLEAR." The value is the spec's decision D21. -/
def Obligations.ResetStartsAFreshCrc : Prop :=
  State.reset.acc = 0x0000 ∧ crcInit = State.reset.acc ∧
  ∀ data : List Byte, ∃ t u, execAll (data.map .crcUpdate) State.reset = .next t ∧
    execAll (.crcClear :: data.map .crcUpdate) State.reset = .next u ∧ t.acc = u.acc

/-- Derived (R18 and R19; R18's construction is marked general knowledge): the ROM has 256 entries, each the one the
construction gives. -/
def Obligations.RomHoldsTheConstructedTable : Prop :=
  rom.length = 256 ∧ (∀ i : Byte, rom[i.toNat]? = some (tableConstruction i)) ∧
  rom[0x00]? = some 0x0000 ∧ rom[0x01]? = some 0x1021 ∧ rom[0x80]? = some 0x9188 ∧ rom[0xFF]? = some 0x1EF0

/-- Derived (R20, marked so): `TABLE[a XOR b] = TABLE[a] XOR TABLE[b]` for every pair of indices. -/
def Obligations.RomIsLinearOverXor : Prop :=
  ∀ a b : Byte, table (a ^^^ b) = table a ^^^ table b

/-! ## The CRC operations -/

/-- R61: one step is the document's recurrence, and the index always lies in the ROM. -/
def Obligations.CrcStepIsTheRecurrence : Prop :=
  ∀ (c : Word) (b : Byte), (c.toNat >>> 8) ^^^ b.toNat < rom.length ∧ (crcStep c b).toNat = recurrence c.toNat b

/-- R62: CRC_CLEAR, from request op 0x0, sets `ACC` to 0x0000, answers OK, writes nothing else; idempotent; right after reset
it leaves `ACC` as it is. -/
def Obligations.CrcClearZeroesAcc : Prop :=
  decode (.request ⟨0x0, []⟩) = .ok .crcClear ∧
  (∀ s, exec .crcClear s = .next { s with acc := 0x0000, responses := s.responses ++ [⟨.ok, .none, .empty⟩] }) ∧
  (∀ s, ∃ t u, exec .crcClear s = .next t ∧ exec .crcClear t = .next u ∧ u.acc = t.acc) ∧
  Answers .crcClear State.reset ⟨.ok, .none, .empty⟩

/-- R63: CRC_UPDATE, from request op 0x1 and one byte, folds the byte into `ACC` by the recurrence, answers OK, writes nothing
else; its three corner cases and its example. -/
def Obligations.CrcUpdateFoldsOneByte : Prop :=
  (∀ b, decode (.request ⟨0x1, [.byte b]⟩) = .ok (.crcUpdate b)) ∧
  (∀ s b, ∃ c : Word, c.toNat = recurrence s.acc.toNat b ∧
    exec (.crcUpdate b) s = .next { s with acc := c, responses := s.responses ++ [⟨.ok, .none, .empty⟩] }) ∧
  (∀ s : State, ∃ t, exec (.crcUpdate 0x00) { s with acc := 0x0000 } = .next t ∧ t.acc = 0x0000) ∧
  (∀ s : State, ∃ t, exec (.crcUpdate (BitVec.ofNat 8 (s.acc.toNat >>> 8))) s = .next t ∧
    t.acc.toNat = (s.acc.toNat <<< 8) &&& 0xFFFF) ∧
  (∀ s : State, ∃ t, exec (.crcUpdate 0xFF) { s with acc := 0xFFFF } = .next t ∧ t.acc = 0xFF00) ∧
  (∀ s : State, ∃ t, exec (.crcUpdate 0x08) { s with acc := 0x0000 } = .next t ∧ t.acc = 0x8108)

/-- R64: CRC_READ, from request op 0x2, answers with `ACC` as a value and as its two big-endian bytes and writes nothing;
reading twice gives the same; after reset it gives 0x0000; its example. -/
def Obligations.CrcReadReturnsAcc : Prop :=
  decode (.request ⟨0x2, []⟩) = .ok .crcRead ∧
  (∀ s, Answers .crcRead s
    ⟨.ok, .none, .crc s.acc [BitVec.ofNat 8 (s.acc.toNat / 256), BitVec.ofNat 8 (s.acc.toNat % 256)]⟩) ∧
  (∀ s, ∃ r, execAll [.crcRead, .crcRead] s = .next { s with responses := s.responses ++ [r, r] }) ∧
  Answers .crcRead State.reset ⟨.ok, .none, .crc 0x0000 [0x00, 0x00]⟩ ∧
  (∀ s, ∃ t, execAll [.crcClear, .crcUpdate 0x08, .crcUpdate 0x01, .crcUpdate 0x00, .crcUpdate 0x00, .crcUpdate 0xD5] s
      = .next t ∧ Answers .crcRead t ⟨.ok, .none, .crc 0xEF41 [0xEF, 0x41]⟩)

/-- R65: CRC16, from request op 0x3 and a sequence, answers with the recurrence folded over the sequence from 0x0000 and writes
nothing; the empty sequence gives 0x0000; leading zero bytes do not change the result; the check value. -/
def Obligations.Crc16FoldsTheRecurrence : Prop :=
  (∀ data, decode (.request ⟨0x3, [.bytes data]⟩) = .ok (.crc16 data)) ∧
  (∀ s data, ∃ c : Word, c.toNat = recurrenceCrc data ∧
    Answers (.crc16 data) s ⟨.ok, .none, .crc c [BitVec.ofNat 8 (c.toNat / 256), BitVec.ofNat 8 (c.toNat % 256)]⟩) ∧
  (∀ s, Answers (.crc16 []) s ⟨.ok, .none, .crc 0x0000 [0x00, 0x00]⟩) ∧
  (∀ s k data, ∃ r, Answers (.crc16 (List.replicate k 0x00 ++ data)) s r ∧ Answers (.crc16 data) s r) ∧
  (∀ s, Answers (.crc16 [0x31, 0x32, 0x33, 0x34, 0x35, 0x36, 0x37, 0x38, 0x39]) s
    ⟨.ok, .none, .crc 0x31C3 [0x31, 0xC3]⟩)

/-- Derived (R67, marked so): CRC_CLEAR, CRC_UPDATE byte by byte and CRC_READ give what CRC16 gives; and from any `ACC`, feeding
`s ++ t` is feeding `t` to what `s` left. -/
def Obligations.IncrementalCrcAgreesWithCrc16 : Prop :=
  (∀ (s : State) (data : List Byte), ∃ (c : Word) (r : Response),
    execAll (.crcClear :: data.map .crcUpdate ++ [.crcRead]) s =
      .next { s with acc := c, responses := s.responses ++ List.replicate (data.length + 1) ⟨.ok, .none, .empty⟩ ++ [r] } ∧
    Answers (.crc16 data) s r ∧ c.toNat = recurrenceCrc data) ∧
  (∀ (s : State) (x y : List Byte), ∃ t, execAll (x.map .crcUpdate) s = .next t ∧
    execAll ((x ++ y).map .crcUpdate) s = execAll (y.map .crcUpdate) t ∧ t.acc.toNat = x.foldl recurrence s.acc.toNat)

/-- Derived (R70; that the two are equal is marked general knowledge): the table-driven engine gives what division one bit at a
time gives: CRC16 for a whole sequence, and CRC_UPDATE from every `ACC`, which it takes through `ACC XOR (b << 8)` and eight
rounds. -/
def Obligations.TableCrcIsBitwiseDivision : Prop :=
  (∀ (s : State) (data : List Byte), Answers (.crc16 data) s
    ⟨.ok, .none, .crc (bitwiseCrc data) [highByte (bitwiseCrc data), lowByte (bitwiseCrc data)]⟩) ∧
  (∀ (s : State) (b : Byte), exec (.crcUpdate b) s = .next { s with
    acc := shiftRounds 8 (s.acc ^^^ ((b.setWidth 16 : Word) <<< 8)), responses := s.responses ++ [⟨.ok, .none, .empty⟩] })

/-- Derived (R51, marked general knowledge): the CRC of a message followed by its own big-endian CRC is 0x0000; so is the CRC
of what follows the header of every frame ENCODE gives. -/
def Obligations.CrcOfMessageWithItsCrcIsZero : Prop :=
  (∀ (s : State) (data : List Byte) (c : Word) (b0 b1 : Byte), Answers (.crc16 data) s ⟨.ok, .none, .crc c [b0, b1]⟩ →
    Answers (.crc16 (data ++ [b0, b1])) s ⟨.ok, .none, .crc 0x0000 [0x00, 0x00]⟩) ∧
  (∀ (s : State) (t : Byte) (a v : Nat) (f : List Byte), Answers (.encode t a v) s ⟨.ok, .none, .frame f⟩ →
    Answers (.crc16 (f.drop 2)) s ⟨.ok, .none, .crc 0x0000 [0x00, 0x00]⟩)

/-- R106: CRC_CLEAR, CRC_UPDATE, CRC_READ and CRC16 raise no error for any operand. -/
def Obligations.CrcOperationsNeverFail : Prop :=
  ∀ (s : State) (b : Byte) (data : List Byte),
    ∀ i ∈ [Instr.crcClear, .crcUpdate b, .crcRead, .crc16 data],
      ∃ t d, exec i s = .next t ∧ t.responses = s.responses ++ [⟨.ok, .none, d⟩]

/-! ## The encoder -/

/-- R71: `payload_len(v) = max(1, ceil(bit_length(v) / 8))`; 0 needs one byte, and `2^(8(k-1)) ≤ v < 2^(8k)` gives `k`. -/
def Obligations.PayloadLengthIsMinimal : Prop :=
  (∀ v : Nat, payloadLen v = max 1 ⌈(Nat.size v : ℚ) / 8⌉₊) ∧ payloadLen 0 = 1 ∧
  (∀ v k : Nat, 1 ≤ k → 2 ^ (8 * (k - 1)) ≤ v → v < 2 ^ (8 * k) → payloadLen v = k)

/-- R72: ENCODE raises the first check that fails, in this order, and produces no frame; the third condition holds exactly when
`value ≥ 2^2040`. The order is the spec's decision D9, the type check's kind D8. -/
def Obligations.EncodeRaisesFirstFailingCheck : Prop :=
  (∀ s t a v, ¬ DefinedType t → Answers (.encode t a v) s ⟨.encodingError, .badTypeCode, .typeCode t⟩) ∧
  (∀ s t a v, DefinedType t → 0xFFFF < a → Answers (.encode t a v) s ⟨.encodingError, .addressRange, .number a⟩) ∧
  (∀ s t a v, DefinedType t → a ≤ 0xFFFF → 255 < payloadLen v →
    Answers (.encode t a v) s ⟨.encodingError, .payloadTooLong, .number (payloadLen v)⟩) ∧
  (∀ v : Nat, 255 < payloadLen v ↔ 2 ^ 2040 ≤ v)

/-- R42, R43, R46, R47, R48: for legal operands ENCODE (request op 0x4) completes with a frame of `8 + N` bytes, 9 to 263:
header, TYPE, LEN = N, ADDR big-endian, PAYLOAD the value in `N` big-endian bytes with no leading zero byte unless `N = 1`, and
the CRC of the body (header left out) big-endian. Nothing but the response is written. -/
def Obligations.EncodeLaysOutTheFrame : Prop :=
  (∀ t a v, decode (.request ⟨0x4, [.byte t, .nat a, .nat v]⟩) = .ok (.encode t a v)) ∧
  ∀ s t a v, LegalCommand t a v → ∃ (payload : List Byte) (crc : Word),
    let n := payload.length
    let body := [t, BitVec.ofNat 8 n, BitVec.ofNat 8 (a / 256), BitVec.ofNat 8 (a % 256)] ++ payload
    let f := [0x7E, 0x00] ++ body ++ [BitVec.ofNat 8 (crc.toNat / 256), BitVec.ofNat 8 (crc.toNat % 256)]
    Answers (.encode t a v) s ⟨.ok, .none, .frame f⟩ ∧ crc.toNat = recurrenceCrc body ∧
    1 ≤ n ∧ n ≤ 255 ∧ f.length = 8 + n ∧ bigEndian payload = v ∧ (n ≠ 1 → payload.head? ≠ some 0x00)

/-- R73: ENCODE's four steps for legal operands, an EncodingError for the others, its corner cases and its example: value 0 is one
zero byte, 0xFF one byte, 0x100 two; the longest frame; the greatest address is accepted. -/
def Obligations.EncodeBuildsOneFrame : Prop :=
  (∀ t a v, decode (.request ⟨0x4, [.byte t, .nat a, .nat v]⟩) = .ok (.encode t a v)) ∧
  (∀ s t a v, LegalCommand t a v → ∃ (payload : List Byte) (c : Word), payload.length = payloadLen v ∧ bigEndian payload = v ∧
    let body := [t] ++ [BitVec.ofNat 8 (payloadLen v)] ++ [BitVec.ofNat 8 (a / 256), BitVec.ofNat 8 (a % 256)] ++ payload
    c.toNat = recurrenceCrc body ∧
    Answers (.encode t a v) s
      ⟨.ok, .none, .frame ([0x7E, 0x00] ++ body ++ [BitVec.ofNat 8 (c.toNat / 256), BitVec.ofNat 8 (c.toNat % 256)])⟩ ∧
    9 ≤ 8 + payloadLen v ∧ 8 + payloadLen v ≤ 263) ∧
  (∀ s t a v, ¬ LegalCommand t a v → ∃ reason info, reason ∈ [Reason.badTypeCode, .addressRange, .payloadTooLong] ∧
    Answers (.encode t a v) s ⟨.encodingError, reason, info⟩) ∧
  ∀ s : State,
    Answers (.encode 0x08 0x0000 0xD5) s ⟨.ok, .none, .frame [0x7E, 0x00, 0x08, 0x01, 0x00, 0x00, 0xD5, 0xEF, 0x41]⟩ ∧
    Answers (.encode 0x08 0x002C 0) s ⟨.ok, .none, .frame [0x7E, 0x00, 0x08, 0x01, 0x00, 0x2C, 0x00, 0x37, 0x12]⟩ ∧
    Answers (.encode 0x07 0x1234 0xFF) s ⟨.ok, .none, .frame [0x7E, 0x00, 0x07, 0x01, 0x12, 0x34, 0xFF, 0xEB, 0xC2]⟩ ∧
    Answers (.encode 0x08 0xFFFF 0x100) s
      ⟨.ok, .none, .frame [0x7E, 0x00, 0x08, 0x02, 0xFF, 0xFF, 0x01, 0x00, 0xFE, 0x30]⟩ ∧
    Answers (.encode 0x08 0x0001 (2 ^ 2040 - 1)) s
      ⟨.ok, .none, .frame ([0x7E, 0x00, 0x08, 0xFF, 0x00, 0x01] ++ List.replicate 255 0xFF ++ [0x36, 0x84])⟩ ∧
    Answers (.encode 0x08 0x0000 (2 ^ 2040)) s ⟨.encodingError, .payloadTooLong, .number 256⟩ ∧
    Answers (.encode 0x08 0x10000 0) s ⟨.encodingError, .addressRange, .number 0x10000⟩

/-- R44: three type codes are defined; ENCODE refuses every other with BAD_TYPE, and DECODE rejects a frame that has one, whole and
with a right CRC, with BAD_TYPE; under a defined one neither ever does. Refusing the others is the spec's decision D8. -/
def Obligations.UndefinedTypeCodesAreRefused : Prop :=
  (∀ t, DefinedType t ↔ t ∈ [typeRead, typeWrite, typeConfig]) ∧ typeRead = 0x07 ∧ typeWrite = 0x08 ∧ typeConfig = 0x09 ∧
  (∀ s t a v, ¬ DefinedType t → Answers (.encode t a v) s ⟨.encodingError, .badTypeCode, .typeCode t⟩) ∧
  (∀ s (t len : Byte) (rest : List Byte) (c : Word), ¬ DefinedType t → rest.length = 2 + len.toNat →
    c.toNat = recurrenceCrc ([t, len] ++ rest) →
    Answers (.decode ([0x7E, 0x00, t, len] ++ rest ++ wordBytes c)) s ⟨.protocolError, .badTypeFrame, .typeCode t⟩) ∧
  (∀ s (t : Byte) (a v : Nat) (rest : List Byte) (d : Data), DefinedType t →
    ¬ Answers (.encode t a v) s ⟨.encodingError, .badTypeCode, d⟩ ∧
    ¬ Answers (.decode (0x7E :: 0x00 :: t :: rest)) s ⟨.protocolError, .badTypeFrame, d⟩)

/-- R45: LEN is the number of payload bytes, one byte; the encoder always writes 1 to 255; DECODE never accepts LEN = 0. -/
def Obligations.LengthByteCountsThePayload : Prop :=
  (∀ s t a v f, Answers (.encode t a v) s ⟨.ok, .none, .frame f⟩ → ∃ (len : Byte), f[3]? = some len ∧
    len.toNat = payloadLen v ∧ 1 ≤ len.toNat ∧ len.toNat ≤ 255 ∧ f.length = 8 + len.toNat) ∧
  (∀ s (f : List Byte), f[3]? = some 0x00 → ∃ reason info, Answers (.decode f) s ⟨.protocolError, reason, info⟩)

/-- R74: the same operands give the same response, whatever state the block is in. -/
def Obligations.EncodeIsAFunctionOfItsOperands : Prop :=
  ∀ t a v, ∃ r, ∀ s, Answers (.encode t a v) s r

/-- R75: an ENCODE that raises an error returns no frame bytes, and the host has nothing to write (the
`<frame>` of `host.write` does not exist). -/
def Obligations.EncodeErrorLeavesNothingToWrite : Prop :=
  ∀ s t a v, ¬ LegalCommand t a v → ∃ r u, Answers (.encode t a v) s r ∧ r.status = .encodingError ∧
    (∀ f, r.data ≠ .frame f) ∧ exec (.encode t a v) s = .next u ∧ lastFrame u = none

/-- R101: EncodingError is raised only by ENCODE, each reason exactly when its check is the first that fails, with its
diagnostic; NEGATIVE_OPERAND by no operation. -/
def Obligations.EncodingErrorsAreExactlyEncodes : Prop :=
  ∀ i s u r, exec i s = .next u → u.responses = s.responses ++ [r] →
    (r.status = .encodingError ↔ ∃ t a v, i = .encode t a v ∧ ¬ LegalCommand t a v) ∧
    (r.reason = .badTypeCode ↔ ∃ t a v, i = .encode t a v ∧ ¬ DefinedType t ∧ r.data = .typeCode t) ∧
    (r.reason = .addressRange ↔ ∃ t a v, i = .encode t a v ∧ DefinedType t ∧ 0xFFFF < a ∧ r.data = .number a) ∧
    (r.reason = .payloadTooLong ↔ ∃ t a v, i = .encode t a v ∧ DefinedType t ∧ a ≤ 0xFFFF ∧ 255 < payloadLen v ∧
      r.data = .number (payloadLen v)) ∧
    r.reason ≠ .negativeOperand

/-! ## The three frame types -/

/-- What the rules of the three frame types say of one TYPE byte: ENCODE with this type builds, for every address and every value
that fits, a frame of R42's layout with this TYPE byte, the row of the table named, and DECODE returns this type, the address
and the value for it; and DECODE returns this type for every canonical frame with this TYPE byte. -/
def Sys2Proof.Machine.FrameRow (type : Byte) (row : Byte → Word → List Byte → Word → Instr) : Prop :=
  (∀ (s : State) (a v : Nat), a ≤ 0xFFFF → v < 2 ^ 2040 → ∃ (payload : List Byte) (crc : Word),
    let len := BitVec.ofNat 8 payload.length
    let addr := BitVec.ofNat 16 a
    let f := [0x7E, 0x00, type, len] ++ wordBytes addr ++ payload ++ wordBytes crc
    payload.length = payloadLen v ∧ bigEndian payload = v ∧ crc.toNat = recurrenceCrc ([type, len] ++ wordBytes addr ++ payload) ∧
    Answers (.encode type a v) s ⟨.ok, .none, .frame f⟩ ∧ decode (.frame f) = .ok (row len addr payload crc) ∧
    Answers (.decode f) s ⟨.ok, .none, .command type a v⟩) ∧
  (∀ (s : State) (f : List Byte), canonicalFrame f = true → f[2]? = some type →
    ∃ a v, Answers (.decode f) s ⟨.ok, .none, .command type a v⟩)

/-- R76: a READ frame has TYPE 0x07; ENCODE builds it and DECODE returns type 0x07 for it; no ENCODE in the lines of a high-level
operation (TRIGGER_SCAN, DISABLE_ALL_FORMATS, SAVE_CONFIG, CONFIGURE, ENABLE_FORMAT) is of one, nor is a known register's
command; its example. -/
def Obligations.ReadFrameIsBuiltAndRecognised : Prop :=
  FrameRow 0x07 .readFrame ∧ (∀ r, (registerCommand r).1 ≠ 0x07) ∧
  (∀ t a v, HostLine.issue (encode (.encode t a v)) ∈ triggerScanLines ++ disableAllFormatsLines ++ saveConfigLines ++
    configureLines .strict ++ configureLines .bestEffort → t ≠ 0x07) ∧
  (∀ fmt en t a v, HostLine.issue (encode (.encode t a v)) ∈ enableFormatLines fmt en → t ≠ 0x07) ∧
  ∀ s, Answers (.encode 0x07 0x0000 0) s ⟨.ok, .none, .frame [0x7E, 0x00, 0x07, 0x01, 0x00, 0x00, 0x00, 0x11, 0x60]⟩

/-- R77: a WRITE frame has TYPE 0x08; every register write of the high-level operations (the initialization sequence, the
trigger, the disable-all, the format enables) is one; its example. -/
def Obligations.WriteFrameIsBuiltAndRecognised : Prop :=
  FrameRow 0x08 .writeFrame ∧
  (∀ c ∈ configureCommands ++ [registerCommand .triggerScan, registerCommand .disableAllFormats], c.1 = 0x08) ∧
  (∀ fmt en, enableFormatLines fmt en = ackedCommand (0x08, formatAddress fmt, if en then 1 else 0)) ∧
  ∀ s, Answers (.encode 0x08 0x0082 0x150D) s
    ⟨.ok, .none, .frame [0x7E, 0x00, 0x08, 0x02, 0x00, 0x82, 0x15, 0x0D, 0x31, 0xD0]⟩

/-- R78: a CONFIG frame has TYPE 0x09; address 0x0000 has no special meaning (it is one of all addresses); the save command is
one; its example. -/
def Obligations.ConfigFrameIsBuiltAndRecognised : Prop :=
  FrameRow 0x09 .configFrame ∧ registerCommand .saveConfig = (0x09, 0x0000, 0x00) ∧
  ∀ s, Answers (.encode 0x09 0x0000 0x00) s ⟨.ok, .none, .frame [0x7E, 0x00, 0x09, 0x01, 0x00, 0x00, 0x00, 0xDE, 0xC8]⟩

/-- The model's choice (assumption log 5): a frame handed to the block is given to DECODE. A canonical READ, WRITE or CONFIG frame
is answered OK with its type, address and value, and nothing but the response is written; every other is answered as DECODE
answers its bytes. -/
def Obligations.FramesHandedOverAreDecoded : Prop :=
  ∀ p ∈ ([(0x07, .readFrame), (0x08, .writeFrame), (0x09, .configFrame)] :
      List (Byte × (Byte → Word → List Byte → Word → Instr))),
    (∀ (s : State) (len : Byte) (addr : Word) (payload : List Byte) (crc : Word),
      payload.length = len.toNat → 1 ≤ payload.length → (payload.length ≠ 1 → payload.head? ≠ some 0x00) →
      crc.toNat = recurrenceCrc ([p.1, len, BitVec.ofNat 8 (addr.toNat / 256), BitVec.ofNat 8 (addr.toNat % 256)] ++ payload) →
      Answers (p.2 len addr payload crc) s ⟨.ok, .none, .command p.1 addr.toNat (bigEndian payload)⟩) ∧
    (∀ len addr payload crc s, exec (p.2 len addr payload crc) s =
      exec (.decode ([0x7E, 0x00, p.1, len] ++ wordBytes addr ++ payload ++ wordBytes crc)) s)

/-- Derived (R79, R80, marked so): ENCODE of every known and format register's command gives the frame listed. -/
def Obligations.KnownRegisterFrames : Prop :=
  (∀ s, ∀ p ∈ ([(.scanMode, [0x7E, 0x00, 0x08, 0x01, 0x00, 0x00, 0xD5, 0xEF, 0x41]),
      (.triggerScan, [0x7E, 0x00, 0x08, 0x01, 0x00, 0x02, 0x01, 0x02, 0xDA]),
      (.disableAllFormats, [0x7E, 0x00, 0x08, 0x01, 0x00, 0x2C, 0x00, 0x37, 0x12]),
      (.serialProtocolConfig, [0x7E, 0x00, 0x08, 0x01, 0x00, 0x60, 0x11, 0x7D, 0xA3]),
      (.readFailMessageLength, [0x7E, 0x00, 0x08, 0x01, 0x00, 0x81, 0x02, 0x7C, 0x72]),
      (.readFailMessage, [0x7E, 0x00, 0x08, 0x02, 0x00, 0x82, 0x15, 0x0D, 0x31, 0xD0]),
      (.saveConfig, [0x7E, 0x00, 0x09, 0x01, 0x00, 0x00, 0x00, 0xDE, 0xC8])] : List (KnownRegister × List Byte)),
    let c := registerCommand p.1
    Answers (.encode c.1 c.2.1 c.2.2) s ⟨.ok, .none, .frame p.2⟩) ∧
  (∀ s, ∀ p ∈ ([(.qr, true, [0x7E, 0x00, 0x08, 0x01, 0x00, 0x3F, 0x01, 0x71, 0x13]),
      (.qr, false, [0x7E, 0x00, 0x08, 0x01, 0x00, 0x3F, 0x00, 0x61, 0x32]),
      (.dataMatrix, true, [0x7E, 0x00, 0x08, 0x01, 0x00, 0x54, 0x01, 0xA6, 0xC3]),
      (.dataMatrix, false, [0x7E, 0x00, 0x08, 0x01, 0x00, 0x54, 0x00, 0xB6, 0xE2]),
      (.pdf417, true, [0x7E, 0x00, 0x08, 0x01, 0x00, 0x55, 0x01, 0x95, 0xF2]),
      (.pdf417, false, [0x7E, 0x00, 0x08, 0x01, 0x00, 0x55, 0x00, 0x85, 0xD3])] : List (Format × Bool × List Byte)),
    Answers (.encode 0x08 (formatAddress p.1) (enableValue p.2.1)) s ⟨.ok, .none, .frame p.2.2⟩)

/-! ## The decoder -/

/-- R86, R87: DECODE (request op 0x5) makes its checks in this order and raises the first that fails; a frame that passes all is
answered with its type, address and value. The list and the order are the spec's decision D11. -/
def Obligations.DecodeChecksInOrder : Prop :=
  (∀ f, decode (.request ⟨0x5, [.bytes f]⟩) = .ok (.decode f)) ∧
  (∀ s f, f.length < 8 → Answers (.decode f) s ⟨.protocolError, .shortFrame, .number f.length⟩) ∧
  (∀ s b0 b1 rest, 6 ≤ rest.length → (b0 ≠ 0x7E ∨ b1 ≠ 0x00) →
    Answers (.decode (b0 :: b1 :: rest)) s ⟨.protocolError, .badHeader, .header b0 b1⟩) ∧
  (∀ s t len rest, 4 ≤ rest.length → rest.length ≠ 4 + len.toNat →
    Answers (.decode (0x7E :: 0x00 :: t :: len :: rest)) s
      ⟨.protocolError, .lengthMismatch, .lengths (8 + len.toNat) (4 + rest.length)⟩) ∧
  (∀ s t len a1 a0 payload c1 c0, payload.length = BitVec.toNat len →
    let body := [t, len, a1, a0] ++ payload
    let received := c1.toNat * 256 + c0.toNat
    let computed := recurrenceCrc body
    let f := [0x7E, 0x00] ++ body ++ [c1, c0]
    (received ≠ computed →
      Answers (.decode f) s ⟨.protocolError, .badCrc, .crcs (BitVec.ofNat 16 received) (BitVec.ofNat 16 computed)⟩) ∧
    (received = computed → ¬ DefinedType t → Answers (.decode f) s ⟨.protocolError, .badTypeFrame, .typeCode t⟩) ∧
    (received = computed → DefinedType t → payload = [] → Answers (.decode f) s ⟨.protocolError, .zeroLength, .empty⟩) ∧
    (received = computed → DefinedType t → 1 < payload.length → payload.head? = some 0x00 →
      Answers (.decode f) s ⟨.protocolError, .nonCanonical, .empty⟩) ∧
    (received = computed → DefinedType t → payload ≠ [] → (payload.length = 1 ∨ payload.head? ≠ some 0x00) →
      Answers (.decode f) s ⟨.ok, .none, .command t (a1.toNat * 256 + a0.toNat) (bigEndian payload)⟩))

/-- R88: "DECODE accepts exactly the canonical frames", those that ENCODE can output, which the listed checks define. What is
rejected beyond the document's words are the spec's decisions D12 and D13. -/
def Obligations.DecodeAcceptsExactlyCanonicalFrames : Prop :=
  ∀ (s : State) (f : List Byte),
    ((∃ t a v, Answers (.decode f) s ⟨.ok, .none, .command t a v⟩) ↔ canonicalFrame f = true) ∧
    (canonicalFrame f = true ↔ ∃ t a v, Answers (.encode t a v) s ⟨.ok, .none, .frame f⟩)

/-- Derived (R89, marked so): DECODE of the frame ENCODE gives returns exactly the operands, at every legal operand. -/
def Obligations.DecodeInvertsEncode : Prop :=
  ∀ (s : State) (t : Byte) (a v : Nat), LegalCommand t a v → ∃ f,
    Answers (.encode t a v) s ⟨.ok, .none, .frame f⟩ ∧ Answers (.decode f) s ⟨.ok, .none, .command t a v⟩

/-- Derived (R90, marked so): on every sequence DECODE accepts, ENCODE of what it returns gives the sequence back; so decoding is
injective. -/
def Obligations.EncodeInvertsDecode : Prop :=
  (∀ (s : State) (f : List Byte) (t : Byte) (a v : Nat), Answers (.decode f) s ⟨.ok, .none, .command t a v⟩ →
    LegalCommand t a v ∧ Answers (.encode t a v) s ⟨.ok, .none, .frame f⟩) ∧
  (∀ (s : State) (f g : List Byte) (t : Byte) (a v : Nat), Answers (.decode f) s ⟨.ok, .none, .command t a v⟩ →
    Answers (.decode g) s ⟨.ok, .none, .command t a v⟩ → f = g)

/-! ## The response checks -/

/-- R93: ACK_CHECK (request op 0x6), for every acknowledgement policy: transport failures first, then the count of 7, then
`ACK_ACCEPT`; 7 accepted bytes are answered OK; under the default policy any 7 are. -/
def Obligations.AckCheckValidatesTheRead : Prop :=
  (∀ rx, decode (.request ⟨0x6, [.result rx]⟩) = .ok (.ackCheck rx)) ∧
  (∀ s, Answers (.ackCheck .fail) s ⟨.transportError, .transportFail, .empty⟩) ∧
  (∀ s, Answers (.ackCheck .timeout) s ⟨.timeoutError, .transportTimeout, .empty⟩) ∧
  (∀ s bs, bs.length < 7 → Answers (.ackCheck (.bytes bs)) s ⟨.protocolError, .shortAck, .number bs.length⟩) ∧
  (∀ s bs, 7 < bs.length → Answers (.ackCheck (.bytes bs)) s ⟨.protocolError, .longAck, .number bs.length⟩) ∧
  (∀ s bs, bs.length = 7 → ackAccept s.ackPolicy bs = false →
    Answers (.ackCheck (.bytes bs)) s ⟨.protocolError, .ackRejected, .ack bs⟩) ∧
  (∀ s bs, bs.length = 7 → ackAccept s.ackPolicy bs = true → Answers (.ackCheck (.bytes bs)) s ⟨.ok, .none, .ack bs⟩) ∧
  (∀ s bs, bs.length = 7 → s.ackPolicy = State.reset.ackPolicy → Answers (.ackCheck (.bytes bs)) s ⟨.ok, .none, .ack bs⟩)

/-- R94: `ACK_ACCEPT` is any total predicate on 7-byte sequences, and its default, which reset leaves, accepts every sequence. How
the model holds the predicate is its own choice (assumption log 6). -/
def Obligations.AckAcceptIsAnyPredicate : Prop :=
  (∀ accept : List Byte → Bool, ∃ policy : AckPolicy, ∀ bs, bs.length = 7 → ackAccept policy bs = accept bs) ∧
  (∀ bs, ackAccept State.reset.ackPolicy bs = true)

/-- R95, R96, R97: SCAN_EXTRACT (request op 0x7): transport failures first; bytes without the terminator are NO_TERMINATOR with
their count only; otherwise the payload ends at the first 0x0D and what follows it is the remainder. -/
def Obligations.ScanExtractCutsAtFirstTerminator : Prop :=
  (∀ rx, decode (.request ⟨0x7, [.result rx]⟩) = .ok (.scanExtract rx)) ∧
  (∀ s, Answers (.scanExtract .fail) s ⟨.transportError, .transportFail, .empty⟩) ∧
  (∀ s, Answers (.scanExtract .timeout) s ⟨.timeoutError, .transportTimeout, .empty⟩) ∧
  (∀ s bs, 0x0D ∉ bs → Answers (.scanExtract (.bytes bs)) s ⟨.timeoutError, .noTerminator, .number bs.length⟩) ∧
  (∀ s payload remainder, 0x0D ∉ payload →
    Answers (.scanExtract (.bytes (payload ++ 0x0D :: remainder))) s ⟨.ok, .none, .scan payload remainder⟩)

/-! ## Reserved codes and errors -/

/-- R56, R105: a request with op code 0x8 to 0xF, whatever operands come with it, changes no state and is answered with
ILLEGAL_OP, RESERVED_OP and the code. The rule is the spec's decision D22. -/
def Obligations.ReservedCodesAreIllegalOps : Prop :=
  (∀ (op : BitVec 4) (operands : List Operand), 8 ≤ op.toNat → ∃ low, decode (.request ⟨op, operands⟩) = .ok (.reserved low) ∧
    ∀ s, Answers (.reserved low) s ⟨.illegalOp, .reservedOp, .opCode op⟩) ∧
  (∀ s low, Answers (.reserved low) s ⟨.illegalOp, .reservedOp, .opCode (BitVec.ofNat 4 (8 + low.toNat))⟩)

/-- R103, R104: TimeoutError and TransportError are raised by ACK_CHECK and SCAN_EXTRACT alone, exactly when the transport result
says so, or when the bytes delivered to SCAN_EXTRACT hold no 0x0D, with the byte count. -/
def Obligations.TransportErrorsAreTheTransports : Prop :=
  ∀ i s u r, exec i s = .next u → u.responses = s.responses ++ [r] →
    (r.reason = .transportTimeout ↔ i = .ackCheck .timeout ∨ i = .scanExtract .timeout) ∧
    (r.reason = .noTerminator ↔ ∃ bs, i = .scanExtract (.bytes bs) ∧ 0x0D ∉ bs ∧ r.data = .number bs.length) ∧
    (r.status = .timeoutError ↔ r.reason = .transportTimeout ∨ r.reason = .noTerminator) ∧
    (r.status = .transportError ↔ i = .ackCheck .fail ∨ i = .scanExtract .fail) ∧
    (r.status = .transportError ↔ r.reason = .transportFail)

/-- R58: the response to every request has a status and a reason of one row of the table, with the row's numbers; an error is
raised only by an operation the row names, with the diagnostic it names; a success carries a result of the kind its
operation gives. The numbers are the spec's decisions D4 and D24. -/
def Obligations.ResponsesFollowTheStatusTable : Prop :=
  ∀ q i s t, decode (.request q) = .ok i → exec i s = .next t → ∃ r, t.responses = s.responses ++ [r] ∧ FollowsTable i r

/-- Derived: the same of a frame handed to the block, READ_FRAME, WRITE_FRAME or CONFIG_FRAME. R58 names no frame in its "raised
by" column: that the three raise DECODE's reasons, with the diagnostics of their bytes, is the model's choice (assumption
log 5). -/
def Obligations.FrameResponsesFollowTheStatusTable : Prop :=
  ∀ f i s t, decode (.frame f) = .ok i → exec i s = .next t → ∃ r, t.responses = s.responses ++ [r] ∧ FollowsTable i r ∧
    Answers (.decode f) s r

/-- Derived (R98, for requests; for the three frame instructions the model's choice, assumption log 5): an operation that fails
returns a response with a non-zero status, its reason and the diagnostic of R58; nothing else happens: no state is written, and
every earlier operation's effect stands. A frame handed over fails as DECODE of its bytes does. Errors as responses are the
spec's decision D18. -/
def Obligations.FailingOperationWritesNoState : Prop :=
  ∀ i s t r, exec i s = .next t → t.responses = s.responses ++ [r] → r.reason ≠ .none →
    statusCode r.status ≠ 0x0 ∧ diagnostic r.reason i = some r.data ∧ t = { s with responses := s.responses ++ [r] }

/-! ## Whole-machine rules -/

/-- Derived (R26, R34, marked so): every operation is a function from state and request to state and response; it delivers exactly
one response; only CRC_CLEAR and CRC_UPDATE write `ACC`; the policy and the host's side are never written. -/
def Obligations.OnlyClearAndUpdateWriteAcc : Prop :=
  ∀ i s, ∃ t r, exec i s = .next t ∧ t = { s with acc := t.acc, responses := s.responses ++ [r] } ∧
    (t.acc ≠ s.acc → i = .crcClear ∨ ∃ b, i = .crcUpdate b)

/-- R24: CRC16, ENCODE and DECODE compute their CRC from `CRC_INIT` in private (CRC16's result, the CRC a frame of ENCODE ends in,
the CRC DECODE reports as computed), neither read nor change `ACC`, and one of them between two CRC_UPDATE operations does
not disturb the running CRC. The private accumulator is the spec's decision D7. -/
def Obligations.PrivateCrcLeavesAccAlone : Prop :=
  (∀ (data f : List Byte) (t : Byte) (a v : Nat), ∀ i ∈ [Instr.crc16 data, .encode t a v, .decode f],
    (∃ r, ∀ s, Answers i s r) ∧
    ∀ s b b', ∃ u w, execAll [.crcUpdate b, i, .crcUpdate b'] s = .next u ∧
      execAll [.crcUpdate b, .crcUpdate b'] s = .next w ∧ u.acc = w.acc) ∧
  (∀ s data, ∃ c bs, Answers (.crc16 data) s ⟨.ok, .none, .crc c bs⟩ ∧ c.toNat = data.foldl recurrence crcInit.toNat) ∧
  (∀ s t a v f, Answers (.encode t a v) s ⟨.ok, .none, .frame f⟩ → ∃ body c, f = [0x7E, 0x00] ++ body ++ wordBytes c ∧
    c.toNat = body.foldl recurrence crcInit.toNat) ∧
  (∀ s f received computed, Answers (.decode f) s ⟨.protocolError, .badCrc, .crcs received computed⟩ → ∃ body,
    f = [0x7E, 0x00] ++ body ++ wordBytes received ∧ computed.toNat = body.foldl recurrence crcInit.toNat)

/-- Derived (R121 and R122): the only response that depends on `ACC` is CRC_READ's: two states with the same policy give the same
response to every other operation. -/
def Obligations.OnlyCrcReadRevealsAcc : Prop :=
  (∀ (i : Instr) (s s' : State), i ≠ .crcRead → s.ackPolicy = s'.ackPolicy → ∃ r t t',
    exec i s = .next t ∧ exec i s' = .next t' ∧ t.responses = s.responses ++ [r] ∧ t'.responses = s'.responses ++ [r]) ∧
  (∀ (s s' : State) (r : Response), Answers .crcRead s r → Answers .crcRead s' r → s.acc = s'.acc)

/-- Derived (R34, marked so): every operation but CRC_UPDATE issued twice gives the same response twice and leaves `ACC` as
the first left it; CRC_UPDATE is not idempotent. -/
def Obligations.OperationsAreIdempotentExceptUpdate : Prop :=
  (∀ (i : Instr) (s : State), (∀ b, i ≠ .crcUpdate b) → ∃ t u r, exec i s = .next t ∧ exec i t = .next u ∧
    t.responses = s.responses ++ [r] ∧ u = { t with responses := t.responses ++ [r] }) ∧
  (∃ (s : State) (b : Byte) (t u : State), exec (.crcUpdate b) s = .next t ∧ exec (.crcUpdate b) t = .next u ∧ u.acc ≠ t.acc)

/-- Derived (R38, R124; that a program is a list of lines is the model's choice, assumption log 2): operations take effect one at
a time in issue order, each in the state the one before it left, and give one response each, in order. -/
def Obligations.OperationsTakeEffectInIssueOrder : Prop :=
  ∀ (is : List Instr) (s : State) (rest : List HostLine), (∀ i ∈ is, WellFormed i = true) →
    s.program = is.map (fun i => .issue (encode i)) ++ rest →
    ∃ t, core.run is.length s = .next t ∧ execAll is { s with program := rest } = .next t ∧
      t.program = rest ∧ t.host = s.host ∧
      ∃ rs, rs.length = is.length ∧ t.responses = s.responses ++ rs

/-- Derived (the wire and the awaited response are the model's own, assumption log 8 and 9). The invariant every step keeps, from
every state that has it: every response delivered is one R58 lists, every frame on the wire is canonical, and a response is
awaited only after a command was written, in the shape the last one written calls for. -/
def Obligations.EveryStepKeepsTheStateLegal : Prop :=
  ∀ s t : State, s.legal = true → step s = .next t → t.legal = true

/-- Derived (the empty interface is the model's choice, assumption log 17). Reset has the invariant. -/
def Obligations.ResetStateIsLegal : Prop :=
  State.reset.legal = true

/-! ## Encoding -/

/-- Derived (30_encoding.md R42, R54): decoding the encoding of every well-formed instruction gives it back, with every operand at
every value. -/
def Obligations.DecodeOfEncodeIsIdentity : Prop :=
  ∀ i : Instr, WellFormed i = true → decode (encode i) = .ok i

/-- Derived (30_encoding.md R42, R54): what decodes is well formed and encodes back to what was handed over, but for the operands
beside a reserved code, which are never looked at (R107). -/
def Obligations.EncodeOfDecodeIsIdentity : Prop :=
  ∀ (x : Issue) (i : Instr), decode x = .ok i → WellFormed i = true ∧
    (encode i = x ∨ ∃ low operands, i = .reserved low ∧ x = .request ⟨1#1 ++ low, operands⟩)

/-- Derived (30_encoding.md R42, R54): words written out from the encoding tables decode to the instructions they stand for. -/
def Obligations.SampleWordsDecode : Prop :=
  decodeTableWord 8 0x0 = some .crcClear ∧ decodeTableWord 8 0x2 = some .crcRead ∧
  decode (.request ⟨0x1, [.byte 0x31]⟩) = .ok (.crcUpdate 0x31) ∧
  decode (.request ⟨0x4, [.byte 0x08, .nat 0x82, .nat 0x150D]⟩) = .ok (.encode 0x08 0x82 0x150D) ∧
  decode (.request ⟨0xB, []⟩) = .ok (.reserved 3) ∧
  decode (.frame [0x7E, 0x00, 0x07, 0x01, 0x12, 0x34, 0xFF, 0xEB, 0xC2]) = .ok (.readFrame 0x01 0x1234 [0xFF] 0xEBC2) ∧
  decode (.frame [0x7E, 0x00, 0x08, 0x02, 0x00, 0x82, 0x15, 0x0D, 0x31, 0xD0])
    = .ok (.writeFrame 0x02 0x0082 [0x15, 0x0D] 0x31D0) ∧
  decode (.frame [0x7E, 0x00, 0x0A, 0x01, 0x00, 0x00, 0xD5, 0xAB, 0xC2]) = .error (.undefinedType 0x0A)

/-! ## The step and the host's lines (the model's own interface: derived, assumption log 2, 3, 5, 8, 9, 13, 14) -/

/-- A step runs the decoded instruction: the host's next line is taken off, and `exec` runs what it decodes to. Bytes that are no
frame of the table are given to DECODE; a request without its operands is refused by name; with nothing issued nothing
happens. -/
def Obligations.StepRunsTheDecodedInstruction : Prop :=
  (∀ (s : State) (x : Issue) (rest : List HostLine) (i : Instr), s.program = .issue x :: rest → decode x = .ok i →
    step s = exec i { s with program := rest }) ∧
  (∀ (s : State) (nbits w : Nat) (i : Instr), decodeTableWord nbits w = some i → step (s.withFetchWord nbits w) = exec i s) ∧
  (∀ (s : State) (f : List Byte) (rest : List HostLine) (e : Reject), s.program = .issue (.frame f) :: rest →
    decode (.frame f) = .error e → step s = exec (.decode f) { s with program := rest }) ∧
  (∀ (s : State) (r : Request) (rest : List HostLine) (e : Reject), s.program = .issue (.request r) :: rest →
    decode (.request r) = .error e → step s = .refused (.malformedRequest r.op)) ∧
  (∀ s : State, s.program = [] → step s = .next s)

/-- The block never stops by itself: a step ends in a fault or a refusal only at a host line that has no meaning. -/
def Obligations.OnlyHostLinesStopTheMachine : Prop :=
  ∀ s : State, (∀ t, step s ≠ .next t) →
    (∃ r rest, s.program = .issue (.request r) :: rest ∧ step s = .refused (.malformedRequest r.op) ∧
      decode (.request r) = .error (.malformedRequest r.op)) ∨
    (∃ rest, s.program = .write :: rest ∧
      ((step s = .fault .nothingToWrite ∧ lastFrame s = none) ∨ (step s = .refused .overlappedCommand ∧ s.host.awaiting ≠ none))) ∨
    (∃ rest, (s.program = .readExact7 :: rest ∨ s.program = .readUntilTerminator :: rest) ∧
      step s = .refused .readWithoutCommand ∧ s.host.awaiting = none) ∨
    (∃ rest, ((s.program = .readExact7 :: rest ∧ s.host.awaiting = some .scan) ∨
        (s.program = .readUntilTerminator :: rest ∧ s.host.awaiting = some .ack)) ∧ step s = .refused .wrongResponseShape) ∨
    (∃ rest, (s.program = .ackCheckRx :: rest ∨ s.program = .scanExtractRx :: rest) ∧
      step s = .fault .noTransportResult ∧ s.host.rx = none)

/-- Derived (R116, R119, marked so): a reset between two operations sets `ACC` to 0x0000 and a later CRC covers only the bytes fed
after it. That the host's side keeps what it has is the model's choice (assumption log 13). -/
def Obligations.ResetBetweenOperationsRestartsTheCrc : Prop :=
  ∀ (s : State) (before after : List Byte) (rest : List HostLine),
    s.program = before.map (fun b => .issue (encode (.crcUpdate b))) ++
      .reset :: after.map (fun b => .issue (encode (.crcUpdate b))) ++ rest →
    ∃ t, core.run (before.length + 1 + after.length) s = .next t ∧ t.program = rest ∧ t.host = s.host ∧
      t.acc.toNat = recurrenceCrc after

/-- What commands with their one read each leave, in this order: the frames on the wire, the last transport result read, and two
responses a command, the frame and the check of its read. -/
def Sys2Proof.Machine.roundTrips (check : TransportResult → Response) (trips : List (List Byte × TransportResult)) (s : State)
    (rest : List HostLine) (incoming : List TransportResult) : State :=
  { s with
    program := rest
    responses := s.responses ++ trips.flatMap (fun trip => [⟨.ok, .none, .frame trip.1⟩, check trip.2])
    host := { incoming := incoming, rx := (trips.getLast?.map Prod.snd).or s.host.rx, wire := s.host.wire ++ trips.map Prod.fst,
              awaiting := none } }

/-- Derived (R81 to R84): TRIGGER_SCAN, DISABLE_ALL_FORMATS, ENABLE_FORMAT and SAVE_CONFIG run as their four lines from any state
in which no command is in flight, and end with the frame listed on the wire and the read's check as the last response. -/
def Obligations.PseudoOperationsAreOneRoundTrip : Prop :=
  ∀ (s : State) (rest : List HostLine) (rx : TransportResult) (incoming : List TransportResult),
    s.host.awaiting = none → s.host.incoming = rx :: incoming →
    (s.program = triggerScanLines ++ rest → core.run 4 s = .next
      (roundTrips scanResponse [([0x7E, 0x00, 0x08, 0x01, 0x00, 0x02, 0x01, 0x02, 0xDA], rx)] s rest incoming)) ∧
    (s.program = disableAllFormatsLines ++ rest → core.run 4 s = .next
      (roundTrips (ackResponse s.ackPolicy) [([0x7E, 0x00, 0x08, 0x01, 0x00, 0x2C, 0x00, 0x37, 0x12], rx)] s rest incoming)) ∧
    (s.program = enableFormatLines .qr true ++ rest → core.run 4 s = .next
      (roundTrips (ackResponse s.ackPolicy) [([0x7E, 0x00, 0x08, 0x01, 0x00, 0x3F, 0x01, 0x71, 0x13], rx)] s rest incoming)) ∧
    (∀ fmt en, s.program = enableFormatLines fmt en ++ rest → ∃ f,
      Answers (.encode 0x08 (formatAddress fmt) (if en then 1 else 0)) s ⟨.ok, .none, .frame f⟩ ∧
      core.run 4 s = .next (roundTrips (ackResponse s.ackPolicy) [(f, rx)] s rest incoming)) ∧
    (s.program = saveConfigLines ++ rest → core.run 4 s = .next
      (roundTrips (ackResponse s.ackPolicy) [([0x7E, 0x00, 0x09, 0x01, 0x00, 0x00, 0x00, 0xDE, 0xC8], rx)] s rest incoming))

/-- The four frames of CONFIGURE, in R85's order. -/
def Sys2Proof.Machine.configureFrames : List (List Byte) :=
  [[0x7E, 0x00, 0x08, 0x01, 0x00, 0x00, 0xD5, 0xEF, 0x41], [0x7E, 0x00, 0x08, 0x01, 0x00, 0x60, 0x11, 0x7D, 0xA3],
   [0x7E, 0x00, 0x08, 0x01, 0x00, 0x81, 0x02, 0x7C, 0x72], [0x7E, 0x00, 0x08, 0x02, 0x00, 0x82, 0x15, 0x0D, 0x31, 0xD0]]

/-- Derived (R85, D30): CONFIGURE. Under STRICT_CONFIGURE = false all four commands are written, in order, whatever the
acknowledgements. Under true it stops at the first acknowledgement that fails, the first, second, third or fourth: the frames
up to that one are on the wire, its check is the last response, the later results are unread, and the host's next line is the
one after CONFIGURE; when none fails all four are written. Nothing else changes, `ACC` included. -/
def Obligations.ConfigureStopsOnlyWhenStrict : Prop :=
  ∀ (s : State) (rest : List HostLine) (results incoming : List TransportResult),
    let ok := fun r => (ackResponse s.ackPolicy r).status = .ok
    let after := fun rs => roundTrips (ackResponse s.ackPolicy) (configureFrames.zip rs) s rest incoming
    s.host.awaiting = none →
    (s.program = configureLines .bestEffort ++ rest → s.host.incoming = results ++ incoming → results.length = 4 →
      core.run 16 s = .next (after results)) ∧
    (s.program = configureLines .strict ++ rest → s.host.incoming = results ++ incoming → results.length = 4 →
      (∀ r ∈ results, ok r) → core.run 20 s = .next (after results)) ∧
    (∀ failing, s.program = configureLines .strict ++ rest → s.host.incoming = results ++ failing :: incoming →
      results.length < 4 → (∀ r ∈ results, ok r) → ¬ ok failing →
      core.run (5 * (results.length + 1)) s = .next (after (results ++ [failing])))

/-- Derived (R75, R123, I15; the stops are the model's choice, assumption log 8 and 9): a second command is not written before the
first one's response has been read, no response is read without a command, and the response is read in its shape: 7 bytes
after every command but TRIGGER_SCAN, up to 0x0D after TRIGGER_SCAN. A host program that does otherwise is refused; with no
frame to write the write is stuck. -/
def Obligations.HostDutiesAreRefusedWhenBroken : Prop :=
  ∀ (s : State) (rest : List HostLine) (f : List Byte),
    let triggerScan : List Byte := [0x7E, 0x00, 0x08, 0x01, 0x00, 0x02, 0x01, 0x02, 0xDA]
    (s.program = .write :: rest → lastFrame s = none → step s = .fault .nothingToWrite) ∧
    (s.program = .write :: rest → lastFrame s = some f →
      (s.host.awaiting ≠ none → step s = .refused .overlappedCommand) ∧
      (s.host.awaiting = none → ∃ t, step s = .next t ∧ t.host.wire = s.host.wire ++ [f] ∧
        t.host.awaiting = some (if f = triggerScan then .scan else .ack))) ∧
    ((s.program = .readExact7 :: rest ∨ s.program = .readUntilTerminator :: rest) → s.host.awaiting = none →
      step s = .refused .readWithoutCommand) ∧
    (s.program = .readExact7 :: rest → s.host.awaiting = some .scan → step s = .refused .wrongResponseShape) ∧
    (s.program = .readUntilTerminator :: rest → s.host.awaiting = some .ack → step s = .refused .wrongResponseShape) ∧
    ((s.program = .readExact7 :: rest ∧ s.host.awaiting = some .ack) ∨
        (s.program = .readUntilTerminator :: rest ∧ s.host.awaiting = some .scan) →
      ∃ t, step s = .next t ∧ t.host.awaiting = none ∧ t.host.rx = some (s.host.incoming.headD .timeout) ∧
        t.host.incoming = s.host.incoming.tail)
end

