-- ==== Sys2Proof/Laws/Bytes.lean ====
section
/-! SUPPORT. The sequence primitives: lengths, what reads back, and the payload length's bounds. -/

namespace Sys2Proof.Machine

@[simp] theorem length_beBytes (n v : Nat) : (beBytes n v).length = n := by
  induction n generalizing v with
  | zero => rfl
  | succ n ih => simp [beBytes, ih]

@[simp] theorem length_wordBytes (v : Word) : (wordBytes v).length = 2 := rfl

@[simp] theorem fromBe_nil : fromBe [] = 0 := rfl

theorem fromBe_append_singleton (s : List Byte) (b : Byte) : fromBe (s ++ [b]) = fromBe s * 256 + b.toNat := by
  simp [fromBe]

/-- `from_be` of a sequence that starts with `b`. -/
theorem fromBe_cons (b : Byte) (s : List Byte) : fromBe (b :: s) = b.toNat * 256 ^ s.length + fromBe s := by
  induction s using List.reverseRecOn with
  | nil => simp [fromBe]
  | append_singleton s x ih =>
    rw [← List.cons_append, fromBe_append_singleton, ih, fromBe_append_singleton]
    simp [pow_succ]; ring

theorem fromBe_lt (s : List Byte) : fromBe s < 256 ^ s.length := by
  induction s using List.reverseRecOn with
  | nil => simp
  | append_singleton s b ih =>
    rw [fromBe_append_singleton]
    have := b.isLt
    simp only [List.length_append, List.length_singleton, pow_succ]
    omega

/-- Writing `n` big-endian bytes and reading them keeps `v` up to the bytes' capacity. -/
theorem fromBe_beBytes (n v : Nat) : fromBe (beBytes n v) = v % 256 ^ n := by
  induction n generalizing v with
  | zero => simp [beBytes, Nat.mod_one]
  | succ n ih =>
    rw [beBytes, fromBe_append_singleton, ih, pow_succ', Nat.mod_mul]
    simp; omega

/-- Reading big-endian bytes and writing as many gives them back. -/
theorem beBytes_fromBe (s : List Byte) : beBytes s.length (fromBe s) = s := by
  induction s using List.reverseRecOn with
  | nil => rfl
  | append_singleton s b ih =>
    have hb := b.isLt
    have hd : (fromBe s * 256 + b.toNat) / 256 = fromBe s := by omega
    rw [fromBe_append_singleton, List.length_append, List.length_singleton, beBytes, hd, ih]
    congr 2
    apply BitVec.eq_of_toNat_eq
    simp; omega

/-- The base-256 digits read as `from_be` reads them. -/
theorem ofDigits_eq_fromBe (s : List Byte) : Nat.ofDigits 256 (s.reverse.map BitVec.toNat) = fromBe s := by
  induction s using List.reverseRecOn with
  | nil => rfl
  | append_singleton s b ih =>
    rw [List.reverse_append, List.reverse_singleton, List.singleton_append, List.map_cons, Nat.ofDigits_cons, ih,
      fromBe_append_singleton]
    exact Nat.add_comm _ _ |>.trans (by ring)

theorem toNat_wordOfBytes (a b : Byte) : (wordOfBytes a b).toNat = a.toNat * 256 + b.toNat := by
  have h : b.toNat < 2 ^ 8 := b.isLt
  rw [wordOfBytes, BitVec.toNat_append, ← Nat.shiftLeft_add_eq_or_of_lt h, Nat.shiftLeft_eq]

theorem toNat_highByte (v : Word) : (highByte v).toNat = v.toNat / 256 := by
  have := v.isLt
  simp [highByte, Nat.shiftRight_eq_div_pow]; omega

theorem toNat_lowByte (v : Word) : (lowByte v).toNat = v.toNat % 256 := by
  simp [lowByte]

theorem highByte_eq (v : Word) : highByte v = BitVec.ofNat 8 (v.toNat / 256) := by
  apply BitVec.eq_of_toNat_eq
  have := v.isLt
  rw [toNat_highByte]; simp; omega

theorem lowByte_eq (v : Word) : lowByte v = BitVec.ofNat 8 (v.toNat % 256) := by
  apply BitVec.eq_of_toNat_eq
  rw [toNat_lowByte]; simp

@[simp] theorem wordOfBytes_high_low (v : Word) : wordOfBytes (highByte v) (lowByte v) = v := by
  apply BitVec.eq_of_toNat_eq
  rw [toNat_wordOfBytes, toNat_highByte, toNat_lowByte]; omega

@[simp] theorem highByte_wordOfBytes (a b : Byte) : highByte (wordOfBytes a b) = a := by
  apply BitVec.eq_of_toNat_eq
  have := b.isLt
  rw [toNat_highByte, toNat_wordOfBytes]; omega

@[simp] theorem lowByte_wordOfBytes (a b : Byte) : lowByte (wordOfBytes a b) = b := by
  apply BitVec.eq_of_toNat_eq
  have := b.isLt
  rw [toNat_lowByte, toNat_wordOfBytes]; omega

theorem fromBe_pair (a b : Byte) : fromBe [a, b] = (wordOfBytes a b).toNat := by
  rw [toNat_wordOfBytes]; simp [fromBe]

/-- The two big-endian bytes of a 16-bit number are its word's. -/
theorem beBytes_two (a : Nat) : beBytes 2 a = wordBytes (BitVec.ofNat 16 a) := by
  simp only [beBytes, wordBytes, highByte_eq, lowByte_eq, List.nil_append, List.cons_append]
  congr 1
  · apply BitVec.eq_of_toNat_eq; simp; omega
  · congr 1; apply BitVec.eq_of_toNat_eq; simp

/-- R71: the payload length is the least byte count that holds the value, and at least 1. -/
theorem payloadLen_eq_iff (v k : Nat) (hk : 1 ≤ k) :
    payloadLen v = k ↔ (k = 1 ∨ 2 ^ (8 * (k - 1)) ≤ v) ∧ v < 2 ^ (8 * k) := by
  unfold payloadLen bitLength
  split
  · subst v; simp; omega
  · rename_i hv
    rw [← Nat.le_log2 hv, ← Nat.log2_lt hv]
    omega

theorem one_le_payloadLen (v : Nat) : 1 ≤ payloadLen v :=
  Nat.le_max_left _ _

theorem lt_pow_payloadLen (v : Nat) : v < 256 ^ payloadLen v := by
  have h := ((payloadLen_eq_iff v _ (one_le_payloadLen v)).1 rfl).2
  rwa [pow_mul] at h

theorem payloadLen_le_255_iff (v : Nat) : payloadLen v ≤ 255 ↔ v < 2 ^ 2040 := by
  unfold payloadLen bitLength
  split
  · subst v; exact iff_of_true (by decide) (by positivity)
  · rename_i hv
    rw [← Nat.log2_lt hv]
    omega

end Sys2Proof.Machine
end

