-- ==== Sys2Proof/Laws/Crc.lean ====
section
/-! SUPPORT. The Checksum Engine: folding over pieces, the ROM against its construction, and the step in the document's own
arithmetic. -/

namespace Sys2Proof.Machine

@[simp] theorem crcFold_nil (c : Word) : crcFold c [] = c := rfl

@[simp] theorem crcFold_cons (c : Word) (b : Byte) (data : List Byte) :
    crcFold c (b :: data) = crcFold (crcStep c b) data := rfl

/-- R67: feeding one sequence after another. -/
theorem crcFold_append (c : Word) (x y : List Byte) : crcFold c (x ++ y) = crcFold (crcFold c x) y :=
  List.foldl_append ..

theorem table_zero : table 0 = 0 := by decide

/-- Every entry of the ROM, as a finite check of the listing against the construction. -/
theorem table_eq_construction : ∀ i : Byte, table i = tableConstruction i := by decide +kernel

theorem shiftRound_xor (a b : Word) : shiftRound (a ^^^ b) = shiftRound a ^^^ shiftRound b := by
  unfold shiftRound
  rw [BitVec.getLsbD_xor, BitVec.shiftLeft_xor_distrib]
  cases a.getLsbD 15 <;> cases b.getLsbD 15 <;> simp <;> first | ac_rfl | skip
  rw [show a <<< 1 ^^^ crcPoly ^^^ (b <<< 1 ^^^ crcPoly) = a <<< 1 ^^^ b <<< 1 ^^^ (crcPoly ^^^ crcPoly) by ac_rfl,
    BitVec.xor_self, BitVec.xor_zero]

theorem shiftRounds_xor (n : Nat) (a b : Word) : shiftRounds n (a ^^^ b) = shiftRounds n a ^^^ shiftRounds n b := by
  induction n generalizing a b with
  | zero => rfl
  | succ n ih => simp only [shiftRounds, shiftRound_xor, ih]

/-- The eight low bits meet no polynomial in eight rounds. -/
theorem shiftRounds_low : ∀ b : Byte, shiftRounds 8 (b.setWidth 16) = b.setWidth 16 <<< 8 := by decide +kernel

theorem word_split (c : Word) : c = ((highByte c).setWidth 16 <<< 8) ^^^ (lowByte c).setWidth 16 := by
  ext i hi
  by_cases h : i < 8
  · simp [lowByte, h, BitVec.getLsbD_eq_getElem hi]
  · have h2 : 8 + (i - 8) = i := by omega
    have h3 : i - 8 < 8 := by omega
    simp [highByte, lowByte, h, h2, h3, BitVec.getLsbD_eq_getElem hi]

theorem shiftLeft_low (c : Word) : c <<< 8 = (lowByte c).setWidth 16 <<< 8 := by
  ext i hi
  by_cases h : i < 8
  · simp [h]
  · have h3 : i - 8 < 8 := by omega
    have h4 : i - 8 < 16 := by omega
    simp [lowByte, h, h3, BitVec.getLsbD_eq_getElem h4]

/-- R70: one step of the table-driven engine is eight rounds of division. -/
theorem crcStep_eq_shiftRounds (c : Word) (b : Byte) :
    crcStep c b = shiftRounds 8 (c ^^^ ((b.setWidth 16 : Word) <<< 8)) := by
  have h : c ^^^ ((b.setWidth 16 : Word) <<< 8) =
      ((highByte c ^^^ b).setWidth 16 <<< 8) ^^^ (lowByte c).setWidth 16 := by
    conv_lhs => rw [word_split c]
    rw [BitVec.setWidth_xor, BitVec.shiftLeft_xor_distrib, BitVec.xor_assoc, BitVec.xor_assoc,
      BitVec.xor_comm ((lowByte c).setWidth 16)]
  rw [h, shiftRounds_xor, shiftRounds_low, crcStep, shiftLeft_low, table_eq_construction, BitVec.xor_comm]
  rfl

theorem highByte_xor_index (c : Word) (b : Byte) : (highByte c ^^^ b).toNat = (c.toNat >>> 8) ^^^ b.toNat := by
  rw [BitVec.toNat_xor, toNat_highByte, Nat.shiftRight_eq_div_pow]

/-- R61: one step in the document's arithmetic. -/
theorem toNat_crcStep (c : Word) (b : Byte) : (crcStep c b).toNat = recurrence c.toNat b := by
  have ht := (table (highByte c ^^^ b)).isLt
  rw [crcStep, recurrence, BitVec.toNat_xor, BitVec.toNat_shiftLeft, table, highByte_xor_index]
  rw [table, highByte_xor_index] at ht
  rw [show (0xFFFF : Nat) = 2 ^ 16 - 1 from rfl, Nat.and_two_pow_sub_one_eq_mod, Nat.xor_mod_two_pow, Nat.mod_eq_of_lt ht]

theorem toNat_crcFold (c : Word) (data : List Byte) : (crcFold c data).toNat = data.foldl recurrence c.toNat := by
  induction data generalizing c with
  | nil => rfl
  | cons b data ih => rw [crcFold_cons, ih, toNat_crcStep, List.foldl_cons]

/-- R65 in the document's arithmetic. -/
theorem toNat_crcOf (data : List Byte) : (crcOf data).toNat = recurrenceCrc data :=
  toNat_crcFold crcInit data

/-- A step with the running value's own high byte only shifts (R63). -/
theorem crcStep_highByte (c : Word) : crcStep c (highByte c) = c <<< 8 := by
  rw [crcStep, BitVec.xor_self]; exact (congrArg (c <<< 8 ^^^ ·) table_zero).trans (BitVec.xor_zero)

/-- Feeding a running value its own two bytes leaves zero (R51). -/
theorem crcFold_wordBytes (c : Word) : crcFold c (wordBytes c) = 0 := by
  have h : highByte (c <<< 8) = lowByte c := by
    apply BitVec.eq_of_toNat_eq
    rw [toNat_highByte, toNat_lowByte, BitVec.toNat_shiftLeft, Nat.shiftLeft_eq]
    omega
  rw [wordBytes, crcFold_cons, crcStep_highByte, crcFold_cons, ← h, crcStep_highByte, crcFold_nil]
  ext i hi
  simp

end Sys2Proof.Machine
end

