-- ==== Sys2Proof/Laws/Frames.lean ====
section
/-! SUPPORT. A frame by its fields: what the offsets of 30_encoding.md R49 pick out of a frame laid out as R42 says, and what
DECODE and the frame decoder answer on it. -/

namespace Sys2Proof.Machine

/-- The bytes of R42's layout, field by field. -/
def layout (b0 b1 t len a1 a0 : Byte) (payload : List Byte) (c1 c0 : Byte) : List Byte :=
  b0 :: b1 :: t :: len :: a1 :: a0 :: (payload ++ [c1, c0])

section offsets
variable (b0 b1 t len a1 a0 c1 c0 : Byte) (payload : List Byte)

@[simp] theorem length_layout : (layout b0 b1 t len a1 a0 payload c1 c0).length = 8 + payload.length := by
  simp [layout]; omega

@[simp] theorem byteAt_layout_0 : byteAt (layout b0 b1 t len a1 a0 payload c1 c0) 0 = b0 := rfl
@[simp] theorem byteAt_layout_1 : byteAt (layout b0 b1 t len a1 a0 payload c1 c0) 1 = b1 := rfl
@[simp] theorem byteAt_layout_2 : byteAt (layout b0 b1 t len a1 a0 payload c1 c0) 2 = t := rfl
@[simp] theorem byteAt_layout_3 : byteAt (layout b0 b1 t len a1 a0 payload c1 c0) 3 = len := rfl
@[simp] theorem byteAt_layout_4 : byteAt (layout b0 b1 t len a1 a0 payload c1 c0) 4 = a1 := rfl
@[simp] theorem byteAt_layout_5 : byteAt (layout b0 b1 t len a1 a0 payload c1 c0) 5 = a0 := rfl

theorem byteAt_layout_6 (h : payload ≠ []) :
    some (byteAt (layout b0 b1 t len a1 a0 payload c1 c0) 6) = payload.head? := by
  cases payload with
  | nil => exact absurd rfl h
  | cons p ps => rfl

variable {n : Nat} (hn : payload.length = n)
include hn

theorem byteAt_layout_crc1 : byteAt (layout b0 b1 t len a1 a0 payload c1 c0) (6 + n) = c1 := by
  subst hn
  rw [Nat.add_comm]
  simp [layout, byteAt]

theorem byteAt_layout_crc0 : byteAt (layout b0 b1 t len a1 a0 payload c1 c0) (7 + n) = c0 := by
  subst hn
  rw [Nat.add_comm]
  simp [layout, byteAt]

theorem slice_layout_payload : slice (layout b0 b1 t len a1 a0 payload c1 c0) 6 (6 + n) = payload := by
  subst hn
  rw [Nat.add_comm]
  simp [layout, slice]

theorem slice_layout_body :
    slice (layout b0 b1 t len a1 a0 payload c1 c0) 2 (6 + n) = [t, len, a1, a0] ++ payload := by
  subst hn
  rw [Nat.add_comm]
  simp [layout, slice]

theorem drop_layout_crc : (layout b0 b1 t len a1 a0 payload c1 c0).drop (6 + n) = [c1, c0] := by
  subst hn
  rw [Nat.add_comm]
  simp [layout]

omit hn in
theorem slice_layout_addr : slice (layout b0 b1 t len a1 a0 payload c1 c0) 4 6 = [a1, a0] := rfl

end offsets

/-- Every sequence of `8 + n` bytes is a layout with an `n`-byte payload. -/
theorem exists_layout {f : List Byte} {n : Nat} (h : f.length = 8 + n) :
    ∃ b0 b1 t len a1 a0 payload c1 c0, f = layout b0 b1 t len a1 a0 payload c1 c0 ∧ payload.length = n := by
  match f, h with
  | b0 :: b1 :: t :: len :: a1 :: a0 :: rest, h =>
    have hr : rest.length = n + 2 := by simp at h; omega
    have hd : (rest.drop n).length = 2 := by simp [hr]
    obtain ⟨c1, c0, hc⟩ := List.length_eq_two.1 hd
    exact ⟨b0, b1, t, len, a1, a0, rest.take n, c1, c0, by rw [layout, ← hc, List.take_append_drop],
      by simp [hr]⟩
  | [], h | [_], h | [_, _], h | [_, _, _], h | [_, _, _, _], h | [_, _, _, _, _], h => simp at h; omega

/-- A frame instruction's bytes are a layout. -/
theorem frameBytes_eq_layout (t len : Byte) (addr : Word) (payload : List Byte) (crc : Word) :
    frameBytes t len addr payload crc =
      layout header0 header1 t len (highByte addr) (lowByte addr) payload (highByte crc) (lowByte crc) := by
  simp [frameBytes, layout, wordBytes]

/-- ENCODE's frame is a layout (R42). -/
theorem commandFrame_eq_layout (t : Byte) (a v : Nat) :
    commandFrame t a v = layout header0 header1 t (BitVec.ofNat 8 (payloadLen v)) (highByte (BitVec.ofNat 16 a))
      (lowByte (BitVec.ofNat 16 a)) (beBytes (payloadLen v) v)
      (highByte (crcOf (commandBody t a v))) (lowByte (crcOf (commandBody t a v))) := by
  simp [commandFrame, layout, commandBody, beBytes_two, wordBytes]

theorem commandBody_eq (t : Byte) (a v : Nat) :
    commandBody t a v = [t, BitVec.ofNat 8 (payloadLen v), highByte (BitVec.ofNat 16 a), lowByte (BitVec.ofNat 16 a)] ++
      beBytes (payloadLen v) v := by
  simp [commandBody, beBytes_two, wordBytes]

/-- DECODE on a layout whose LEN fits: R86's checks from the CRC on, by the fields. -/
theorem decodeResponse_layout (t len a1 a0 c1 c0 : Byte) (payload : List Byte) (hn : payload.length = len.toNat) :
    decodeResponse (layout header0 header1 t len a1 a0 payload c1 c0) =
      if wordOfBytes c1 c0 ≠ crcOf ([t, len, a1, a0] ++ payload) then
        raise .protocolError .badCrc (.crcs (wordOfBytes c1 c0) (crcOf ([t, len, a1, a0] ++ payload)))
      else if !typeDefined t then raise .protocolError .badTypeFrame (.typeCode t)
      else if payload = [] then raise .protocolError .zeroLength .empty
      else if 1 < payload.length ∧ payload.head? = some 0x00 then raise .protocolError .nonCanonical .empty
      else respondOk (.command t (wordOfBytes a1 a0).toNat (fromBe payload)) := by
  have hl : ¬ (8 + len.toNat < 8) := by omega
  have h6 : payload ≠ [] → (byteAt (layout header0 header1 t len a1 a0 payload c1 c0) 6 = 0x00 ↔ payload.head? = some 0x00) :=
    fun h => by rw [← byteAt_layout_6 header0 header1 t len a1 a0 c1 c0 payload h]; simp
  have h0 : payload.length = 0 ↔ payload = [] := List.length_eq_zero_iff
  simp only [decodeResponse, length_layout, hl, byteAt_layout_0, byteAt_layout_1, byteAt_layout_3, ne_eq,
    not_true_eq_false, or_self, if_false, hn, frameOverhead, decodeContents, byteAt_layout_2,
    byteAt_layout_crc1 _ _ _ _ _ _ _ _ _ hn, byteAt_layout_crc0 _ _ _ _ _ _ _ _ _ hn,
    slice_layout_body _ _ _ _ _ _ _ _ _ hn, slice_layout_payload _ _ _ _ _ _ _ _ _ hn, slice_layout_addr, fromBe_pair]
  by_cases hp : payload = []
  · simp [hp, ← hn]
  · simp only [h6 hp, hp, if_false, ← hn, h0]

/-- The frame decoder on a layout whose LEN fits. -/
theorem decodeFrameRow_layout (t len a1 a0 c1 c0 : Byte) (payload : List Byte) (hn : payload.length = len.toNat) :
    decodeFrameRow (layout header0 header1 t len a1 a0 payload c1 c0) =
      if t = typeRead then .ok (.readFrame len (wordOfBytes a1 a0) payload (wordOfBytes c1 c0))
      else if t = typeWrite then .ok (.writeFrame len (wordOfBytes a1 a0) payload (wordOfBytes c1 c0))
      else if t = typeConfig then .ok (.configFrame len (wordOfBytes a1 a0) payload (wordOfBytes c1 c0))
      else .error (.undefinedType t) := by
  have hl : ¬ (8 + len.toNat < 8) := by omega
  simp only [decodeFrameRow, length_layout, hl, byteAt_layout_0, byteAt_layout_1, byteAt_layout_2, byteAt_layout_3,
    byteAt_layout_4, byteAt_layout_5, ne_eq, not_true_eq_false, or_self, if_false, hn, frameOverhead,
    byteAt_layout_crc1 _ _ _ _ _ _ _ _ _ hn, byteAt_layout_crc0 _ _ _ _ _ _ _ _ _ hn,
    slice_layout_payload _ _ _ _ _ _ _ _ _ hn]

/-- What the frame decoder accepts is a layout with a fitting LEN. -/
theorem layout_of_decodeFrameRow {f : List Byte} {i : Instr} (h : decodeFrameRow f = .ok i) :
    ∃ t len a1 a0 payload c1 c0, f = layout header0 header1 t len a1 a0 payload c1 c0 ∧ payload.length = len.toNat := by
  unfold decodeFrameRow at h
  split at h; · cases h
  split at h; · cases h
  rename_i hh
  dsimp only at h
  split at h; · cases h
  rename_i hl
  rw [not_not] at hl
  obtain ⟨b0, b1, t, len, a1, a0, payload, c1, c0, rfl, hp⟩ := exists_layout hl
  simp only [byteAt_layout_0, byteAt_layout_1, not_or, not_not] at hh
  exact ⟨t, len, a1, a0, payload, c1, c0, by rw [hh.1, hh.2], by simpa using hp⟩

end Sys2Proof.Machine
end

