-- ==== Sys2Proof/Laws/State.lean ====
section
/-! SUPPORT. One lemma per field per update of the state, so that no proof unfolds an update. -/

namespace Sys2Proof.Machine

section setAcc
variable (v : Word) (s : State)
@[simp] theorem setAcc_acc : (setAcc v s).acc = v := rfl
@[simp] theorem setAcc_ackPolicy : (setAcc v s).ackPolicy = s.ackPolicy := rfl
@[simp] theorem setAcc_responses : (setAcc v s).responses = s.responses := rfl
@[simp] theorem setAcc_program : (setAcc v s).program = s.program := rfl
@[simp] theorem setAcc_host : (setAcc v s).host = s.host := rfl
end setAcc

section deliver
variable (r : Response) (s : State)
@[simp] theorem deliver_acc : (deliver r s).acc = s.acc := rfl
@[simp] theorem deliver_ackPolicy : (deliver r s).ackPolicy = s.ackPolicy := rfl
@[simp] theorem deliver_responses : (deliver r s).responses = s.responses ++ [r] := rfl
@[simp] theorem deliver_program : (deliver r s).program = s.program := rfl
@[simp] theorem deliver_host : (deliver r s).host = s.host := rfl
end deliver

section readTransport
variable (s : State)
@[simp] theorem readTransport_acc : (readTransport s).acc = s.acc := rfl
@[simp] theorem readTransport_ackPolicy : (readTransport s).ackPolicy = s.ackPolicy := rfl
@[simp] theorem readTransport_responses : (readTransport s).responses = s.responses := rfl
@[simp] theorem readTransport_program : (readTransport s).program = s.program := rfl
@[simp] theorem readTransport_incoming : (readTransport s).host.incoming = s.host.incoming.tail := rfl
@[simp] theorem readTransport_rx : (readTransport s).host.rx = some (s.host.incoming.headD .timeout) := rfl
@[simp] theorem readTransport_wire : (readTransport s).host.wire = s.host.wire := rfl
@[simp] theorem readTransport_awaiting : (readTransport s).host.awaiting = none := rfl
end readTransport

section writeWire
variable (f : List Byte) (s : State)
@[simp] theorem writeWire_acc : (writeWire f s).acc = s.acc := rfl
@[simp] theorem writeWire_ackPolicy : (writeWire f s).ackPolicy = s.ackPolicy := rfl
@[simp] theorem writeWire_responses : (writeWire f s).responses = s.responses := rfl
@[simp] theorem writeWire_program : (writeWire f s).program = s.program := rfl
@[simp] theorem writeWire_incoming : (writeWire f s).host.incoming = s.host.incoming := rfl
@[simp] theorem writeWire_rx : (writeWire f s).host.rx = s.host.rx := rfl
@[simp] theorem writeWire_wire : (writeWire f s).host.wire = s.host.wire ++ [f] := rfl
@[simp] theorem writeWire_awaiting : (writeWire f s).host.awaiting = some (responseShape f) := rfl
end writeWire

section putNext
variable (x : Issue) (s : State)
@[simp] theorem putNext_acc : (putNext x s).acc = s.acc := rfl
@[simp] theorem putNext_ackPolicy : (putNext x s).ackPolicy = s.ackPolicy := rfl
@[simp] theorem putNext_responses : (putNext x s).responses = s.responses := rfl
@[simp] theorem putNext_program : (putNext x s).program = .issue x :: s.program := rfl
@[simp] theorem putNext_host : (putNext x s).host = s.host := rfl
end putNext

@[simp] theorem reset_acc : State.reset.acc = 0x0000 := rfl
@[simp] theorem reset_ackPolicy : State.reset.ackPolicy = ⟨[]⟩ := rfl
@[simp] theorem reset_responses : State.reset.responses = [] := rfl
@[simp] theorem reset_program : State.reset.program = [] := rfl
@[simp] theorem reset_host : State.reset.host = ⟨[], none, [], none⟩ := rfl

end Sys2Proof.Machine
end

