-- ==== Sys2Proof/Laws/Ops.lean ====
section
/-! SUPPORT. What each shared operation and each step can do, said once: how an instruction ends, how a step takes the host's
next line, and how a run goes on. -/

namespace Sys2Proof.Machine

@[simp] theorem finish_eq (r : Response) (s : State) : finish r s = .next (deliver r s) := rfl

/-- An operation that ends with `r` and writes nothing is answered with `r`. -/
theorem answers_of_finish {i : Instr} {s : State} {r : Response} (h : exec i s = finish r s) : Answers i s r := h

/-- The response an operation is answered with is determined. -/
theorem Answers.unique {i : Instr} {s : State} {r r' : Response} (h : Answers i s r) (h' : Answers i s r') : r = r' := by
  have := h.symm.trans h'
  simpa using this

section meanings
variable (s : State)
theorem exec_crcClear : exec .crcClear s = .next (deliver (respondOk .empty) (setAcc crcInit s)) := rfl
theorem exec_crcUpdate (b : Byte) :
    exec (.crcUpdate b) s = .next (deliver (respondOk .empty) (setAcc (crcStep s.acc b) s)) := rfl
theorem answers_crcRead : Answers .crcRead s (crcResult s.acc) := rfl
theorem answers_crc16 (data : List Byte) : Answers (.crc16 data) s (crcResult (crcOf data)) := rfl
theorem answers_encode (t : Byte) (a v : Nat) : Answers (.encode t a v) s (encodeResponse t a v) := rfl
theorem answers_decode (f : List Byte) : Answers (.decode f) s (decodeResponse f) := rfl
theorem answers_ackCheck (rx : TransportResult) : Answers (.ackCheck rx) s (ackResponse s.ackPolicy rx) := rfl
theorem answers_scanExtract (rx : TransportResult) : Answers (.scanExtract rx) s (scanResponse rx) := rfl
theorem answers_reserved (low : BitVec 3) :
    Answers (.reserved low) s (raise .illegalOp .reservedOp (.opCode (1#1 ++ low))) := rfl
theorem answers_readFrame (len : Byte) (addr : Word) (p : List Byte) (crc : Word) :
    Answers (.readFrame len addr p crc) s (decodeResponse (frameBytes typeRead len addr p crc)) := rfl
theorem answers_writeFrame (len : Byte) (addr : Word) (p : List Byte) (crc : Word) :
    Answers (.writeFrame len addr p crc) s (decodeResponse (frameBytes typeWrite len addr p crc)) := rfl
theorem answers_configFrame (len : Byte) (addr : Word) (p : List Byte) (crc : Word) :
    Answers (.configFrame len addr p crc) s (decodeResponse (frameBytes typeConfig len addr p crc)) := rfl
end meanings

/-- Every operation delivers one response and writes at most `ACC`; which value `ACC` gets, by the instruction. -/
theorem exec_cases (i : Instr) (s : State) : ∃ r v, exec i s = .next (deliver r (setAcc v s)) ∧
    ((i = .crcClear ∧ v = crcInit) ∨ (∃ b, i = .crcUpdate b ∧ v = crcStep s.acc b) ∨ v = s.acc) := by
  cases i with
  | crcClear => exact ⟨_, _, rfl, .inl ⟨rfl, rfl⟩⟩
  | crcUpdate b => exact ⟨_, _, rfl, .inr (.inl ⟨b, rfl, rfl⟩)⟩
  | crcRead => exact ⟨_, s.acc, rfl, .inr (.inr rfl)⟩
  | crc16 data => exact ⟨_, s.acc, rfl, .inr (.inr rfl)⟩
  | encode t a v => exact ⟨_, s.acc, rfl, .inr (.inr rfl)⟩
  | decode f => exact ⟨_, s.acc, rfl, .inr (.inr rfl)⟩
  | ackCheck rx => exact ⟨_, s.acc, rfl, .inr (.inr rfl)⟩
  | scanExtract rx => exact ⟨_, s.acc, rfl, .inr (.inr rfl)⟩
  | reserved low => exact ⟨_, s.acc, rfl, .inr (.inr rfl)⟩
  | readFrame len addr p crc => exact ⟨_, s.acc, rfl, .inr (.inr rfl)⟩
  | writeFrame len addr p crc => exact ⟨_, s.acc, rfl, .inr (.inr rfl)⟩
  | configFrame len addr p crc => exact ⟨_, s.acc, rfl, .inr (.inr rfl)⟩

@[simp] theorem execAll_nil (s : State) : execAll [] s = .next s := rfl

theorem execAll_cons {i : Instr} {s t : State} (is : List Instr) (h : exec i s = .next t) :
    execAll (i :: is) s = execAll is t := by
  simp [execAll, h]

theorem execAll_append {is : List Instr} {s t : State} (js : List Instr) (h : execAll is s = .next t) :
    execAll (is ++ js) s = execAll js t := by
  induction is generalizing s with
  | nil => cases h; rfl
  | cons i is ih =>
    obtain ⟨r, v, he, -⟩ := exec_cases i s
    rw [execAll_cons _ he] at h
    rw [List.cons_append, execAll_cons _ he, ih h]

theorem step_of_nil {s : State} (h : s.program = []) : step s = .next s := by
  simp [step, stepHost, h]

theorem step_of_cons {s : State} {line : HostLine} {rest : List HostLine} (h : s.program = line :: rest) :
    step s = runHostLine line { s with program := rest } := by
  simp [step, stepHost, h]

/-- The frame to write after a response: what the response says of it, or the one before. -/
theorem lastFrame_deliver (r : Response) (s : State) : lastFrame (deliver r s) = (frameNews r).getD (lastFrame s) := by
  rw [lastFrame, deliver, List.reverse_concat, List.findSome?_cons]
  cases frameNews r <;> rfl

/-- The frame to write was given by some response. -/
theorem exists_response_of_lastFrame {s : State} {f : List Byte} (h : lastFrame s = some f) :
    ∃ reason, (⟨.ok, reason, .frame f⟩ : Response) ∈ s.responses := by
  rw [lastFrame, Option.join_eq_some_iff] at h
  obtain ⟨r, hr, hn⟩ := List.exists_of_findSome?_eq_some h
  unfold frameNews at hn
  split at hn
  · cases hn; exact ⟨_, List.mem_reverse.1 hr⟩
  · cases hn
  · cases hn

/-- The block's own frame of TRIGGER_SCAN, byte by byte (41_encode.md R81). -/
theorem triggerScanFrame_eq : triggerScanFrame = [0x7E, 0x00, 0x08, 0x01, 0x00, 0x02, 0x01, 0x02, 0xDA] := by decide

/-- A read goes on exactly when a response of its shape is awaited; otherwise it is refused, by one of two names. -/
theorem runRead_cases (shape : ResponseShape) (s : State) :
    (s.host.awaiting = some shape ∧ runRead shape s = .next (readTransport s)) ∨
    (s.host.awaiting = none ∧ runRead shape s = .refused .readWithoutCommand) ∨
    (∃ expected, expected ≠ shape ∧ s.host.awaiting = some expected ∧ runRead shape s = .refused .wrongResponseShape) := by
  unfold runRead
  cases h : s.host.awaiting with
  | none => exact .inr (.inl ⟨rfl, rfl⟩)
  | some expected =>
    by_cases he : shape = expected
    · exact .inl ⟨by rw [he], if_pos he⟩
    · exact .inr (.inr ⟨expected, Ne.symm he, rfl, if_neg he⟩)

/-- A write goes on exactly when ENCODE gave a frame and no response is awaited. -/
theorem runWrite_cases (s : State) :
    (lastFrame s = none ∧ runWrite s = .fault .nothingToWrite) ∨
    (s.host.awaiting ≠ none ∧ runWrite s = .refused .overlappedCommand) ∨
    (∃ f, lastFrame s = some f ∧ s.host.awaiting = none ∧ runWrite s = .next (writeWire f s)) := by
  unfold runWrite
  cases lastFrame s with
  | none => exact .inl ⟨rfl, rfl⟩
  | some f =>
    cases s.host.awaiting with
    | none => exact .inr (.inr ⟨f, rfl, rfl, rfl⟩)
    | some shape => exact .inr (.inl ⟨by simp, rfl⟩)

@[simp] theorem core_run_zero (s : State) : Sys2Proof.core.run 0 s = .next s := rfl

theorem core_run_succ {s t : State} (k : Nat) (h : step s = .next t) : Sys2Proof.core.run (k + 1) s = Sys2Proof.core.run k t := by
  have h' : Sys2Proof.core.step s = .next t := h
  simp [Host.Core.run, h']

theorem core_run_add {s t : State} {k : Nat} (m : Nat) (h : Sys2Proof.core.run k s = .next t) :
    Sys2Proof.core.run (k + m) s = Sys2Proof.core.run m t := by
  induction k generalizing s with
  | zero => cases h; rw [Nat.zero_add]
  | succ k ih =>
    rw [Nat.add_right_comm]
    cases hs : Sys2Proof.core.step s with
    | next u =>
      simp only [Host.Core.run, hs] at h ⊢
      exact ih h
    | fault r => simp [Host.Core.run, hs] at h
    | refused r => simp [Host.Core.run, hs] at h

end Sys2Proof.Machine
end

