-- ==== Sys2Proof/Laws/PerInstr.lean ====
section
/-! SUPPORT. For every instruction, that its encoding matches its row of spec/opcode_table.json: the match and mask of the op
field for a request, of the first three bytes, most significant first, for a frame. -/

namespace Sys2Proof.Laws.MatchesTableRow

/-- `match` and `mask` of the row an instruction stands in, and the width of what they apply to. -/
def row : Instr → Nat × Nat
  | .crcClear => (0x0, 0xF)
  | .crcUpdate _ => (0x1, 0xF)
  | .crcRead => (0x2, 0xF)
  | .crc16 _ => (0x3, 0xF)
  | .encode _ _ _ => (0x4, 0xF)
  | .decode _ => (0x5, 0xF)
  | .ackCheck _ => (0x6, 0xF)
  | .scanExtract _ => (0x7, 0xF)
  | .reserved _ => (0x8, 0x8)
  | .readFrame _ _ _ _ => (0x7E0007, 0xFFFFFF)
  | .writeFrame _ _ _ _ => (0x7E0008, 0xFFFFFF)
  | .configFrame _ _ _ _ => (0x7E0009, 0xFFFFFF)

/-- The bits a row's match and mask apply to. -/
def rowBits : Issue → Nat
  | .request r => r.op.toNat
  | .frame f => Machine.fromBe (f.take 3)

/-- The encoding of the instruction has its row's bits. -/
def Statement (i : Instr) : Prop :=
  rowBits (encode i) &&& (row i).2 = (row i).1

/-- From the bits of the encoding, as a number, to the statement. -/
theorem of_bits {i : Instr} (n m k : Nat) (h : rowBits (Sys2Proof.encode i) = n) (hr : row i = (m, k))
    (hn : n &&& k = m) : Statement i := by
  rw [Statement, h, hr, hn]

/-- The first three bytes of a frame, most significant first. -/
theorem rowBits_frame (type len : Byte) (addr : Word) (payload : List Byte) (crc : Word) :
    rowBits (.frame (frameBytes type len addr payload crc)) = 0x7E0000 + type.toNat := by
  simp [rowBits, frameBytes, Machine.fromBe, Machine.header0, Machine.header1]

theorem crcClear : Statement .crcClear := of_bits 0x0 0x0 0xF rfl rfl rfl
theorem crcUpdate (b : Byte) : Statement (.crcUpdate b) := of_bits 0x1 0x1 0xF rfl rfl rfl
theorem crcRead : Statement .crcRead := of_bits 0x2 0x2 0xF rfl rfl rfl
theorem crc16 (data : List Byte) : Statement (.crc16 data) := of_bits 0x3 0x3 0xF rfl rfl rfl
theorem encode (type : Byte) (address value : Nat) : Statement (.encode type address value) := of_bits 0x4 0x4 0xF rfl rfl rfl
theorem decode (frame : List Byte) : Statement (.decode frame) := of_bits 0x5 0x5 0xF rfl rfl rfl
theorem ackCheck (rx : TransportResult) : Statement (.ackCheck rx) := of_bits 0x6 0x6 0xF rfl rfl rfl
theorem scanExtract (rx : TransportResult) : Statement (.scanExtract rx) := of_bits 0x7 0x7 0xF rfl rfl rfl
theorem reserved (low : BitVec 3) : Statement (.reserved low) := by
  have h : ∀ low : BitVec 3, (1#1 ++ low).toNat &&& 0x8 = 0x8 := by decide
  exact of_bits _ 0x8 0x8 rfl rfl (h low)
theorem readFrame (len : Byte) (addr : Word) (payload : List Byte) (crc : Word) :
    Statement (.readFrame len addr payload crc) := of_bits 0x7E0007 0x7E0007 0xFFFFFF (rowBits_frame ..) rfl rfl
theorem writeFrame (len : Byte) (addr : Word) (payload : List Byte) (crc : Word) :
    Statement (.writeFrame len addr payload crc) := of_bits 0x7E0008 0x7E0008 0xFFFFFF (rowBits_frame ..) rfl rfl
theorem configFrame (len : Byte) (addr : Word) (payload : List Byte) (crc : Word) :
    Statement (.configFrame len addr payload crc) := of_bits 0x7E0009 0x7E0009 0xFFFFFF (rowBits_frame ..) rfl rfl

end Sys2Proof.Laws.MatchesTableRow
end

