-- ==== Sys2Proof/Tests/Slice0.lean ====
section
/-! SUPPORT. Tests and witnesses. Every expected value is from spec/: the vectors of 95_test_vectors.md, or a rule's own
example; a test names its source. A theorem named `witness_…` shows operands or a state that meet the hypotheses of the
obligation it names. -/

namespace Sys2Proof.Tests

open Sys2Proof Sys2Proof.Machine

/-- A state in the middle of an incremental CRC, with a response already given. -/
def midway : State :=
  { State.reset with acc := 0x9015, responses := [⟨.ok, .none, .empty⟩] }

/-- A state in which a policy refuses the acknowledgement of 95_test_vectors.md 2.4. -/
def choosy : State :=
  { midway with ackPolicy := ⟨[[0x02, 0x00, 0x00, 0x01, 0x00, 0x33, 0x31]]⟩ }

/-- `s` with these lines as its host program. -/
def running (lines : List HostLine) (s : State) : State :=
  { s with program := lines }

/-- `midway` with these transport results still to be read. -/
def receiving (incoming : List TransportResult) : State :=
  { midway with host := { midway.host with incoming := incoming } }

/-- `midway` after ENCODE has answered with the golden frame. -/
def encoded : State :=
  { midway with responses := [⟨.ok, .none, .frame [0x7E, 0x00, 0x08, 0x01, 0x00, 0x00, 0xD5, 0xEF, 0x41]⟩] }

/-- `encoded` with a written command whose response is awaited. -/
def waiting : State :=
  { encoded with host := { encoded.host with
      wire := [[0x7E, 0x00, 0x08, 0x01, 0x00, 0x00, 0xD5, 0xEF, 0x41]], awaiting := some .ack } }

/-- The same after TRIGGER_SCAN (41_encode.md R81), whose response is a scan result. -/
def triggered : State :=
  { midway with
    responses := [⟨.ok, .none, .frame [0x7E, 0x00, 0x08, 0x01, 0x00, 0x02, 0x01, 0x02, 0xDA]⟩]
    host := { midway.host with
      wire := [[0x7E, 0x00, 0x08, 0x01, 0x00, 0x02, 0x01, 0x02, 0xDA]], awaiting := some .scan } }

/-- Whether an outcome is this next state, this fault, this refusal: the three questions `decide` can answer. -/
def nextIs (o : Host.Outcome State Fault Refusal) (t : State) : Bool :=
  match o with
  | .next u => u == t
  | _ => false
def faultIs (o : Host.Outcome State Fault Refusal) (r : Fault) : Bool :=
  match o with
  | .fault q => q == r
  | _ => false
def refusalIs (o : Host.Outcome State Fault Refusal) (r : Refusal) : Bool :=
  match o with
  | .refused q => q == r
  | _ => false

theorem next_of {o : Host.Outcome State Fault Refusal} {t : State} (h : nextIs o t = true) : o = .next t := by
  cases o <;> simp_all [nextIs]
theorem fault_of {o : Host.Outcome State Fault Refusal} {r : Fault} (h : faultIs o r = true) : o = .fault r := by
  cases o <;> simp_all [faultIs]
theorem refusal_of {o : Host.Outcome State Fault Refusal} {r : Refusal} (h : refusalIs o r = true) : o = .refused r := by
  cases o <;> simp_all [refusalIs]

/-! ## Well-formedness -/

theorem test_wellFormed_readFrame : WellFormed (.readFrame 2 0 [0x12, 0x34] 0) = true ∧ WellFormed (.readFrame 2 0 [0x12] 0) = false := by
  decide
theorem test_wellFormed_writeFrame : WellFormed (.writeFrame 0 0 [] 0) = true ∧ WellFormed (.writeFrame 0 0 [0x00] 0) = false := by
  decide
theorem test_wellFormed_configFrame :
    WellFormed (.configFrame 1 0 [0xFF] 0) = true ∧ WellFormed (.configFrame 1 0 [0xFF, 0xFF] 0) = false := by decide

/-! ## Decoding: words written out from 30_encoding.md R54 (op codes) and R42, R44 (frames) -/

theorem test_decode_ops_without_operand :
    decode (.request ⟨0b0000, []⟩) = .ok .crcClear ∧ decode (.request ⟨0b0010, []⟩) = .ok .crcRead := by decide
theorem test_decode_crcUpdate : decode (.request ⟨0b0001, [.byte 0x31]⟩) = .ok (.crcUpdate 0x31) := by decide
theorem test_decode_crc16 : decode (.request ⟨0b0011, [.bytes [0x31, 0x32]]⟩) = .ok (.crc16 [0x31, 0x32]) := by decide
theorem test_decode_encode :
    decode (.request ⟨0b0100, [.byte 0x08, .nat 0x82, .nat 0x150D]⟩) = .ok (.encode 0x08 0x82 0x150D) := by decide
theorem test_decode_decode : decode (.request ⟨0b0101, [.bytes [0x7E]]⟩) = .ok (.decode [0x7E]) := by decide
theorem test_decode_ackCheck : decode (.request ⟨0b0110, [.result .timeout]⟩) = .ok (.ackCheck .timeout) := by decide
theorem test_decode_scanExtract : decode (.request ⟨0b0111, [.result (.bytes [0x0D])]⟩) = .ok (.scanExtract (.bytes [0x0D])) := by
  decide
theorem test_decode_reserved : decode (.request ⟨0b1000, []⟩) = .ok (.reserved 0b000) ∧
    decode (.request ⟨0b1111, [.byte 0x00]⟩) = .ok (.reserved 0b111) := by decide
/-- 95_test_vectors.md 2.2: READ, 0x1234, 0xFF. -/
theorem test_decode_readFrame : decode (.frame [0x7E, 0x00, 0x07, 0x01, 0x12, 0x34, 0xFF, 0xEB, 0xC2]) =
    .ok (.readFrame 0x01 0x1234 [0xFF] 0xEBC2) := by decide
/-- 41_encode.md R77's example. -/
theorem test_decode_writeFrame : decode (.frame [0x7E, 0x00, 0x08, 0x02, 0x00, 0x82, 0x15, 0x0D, 0x31, 0xD0]) =
    .ok (.writeFrame 0x02 0x0082 [0x15, 0x0D] 0x31D0) := by decide
/-- 95_test_vectors.md 2.2: CONFIG, 0xABCD, 0xFFFFFF. -/
theorem test_decode_configFrame : decode (.frame [0x7E, 0x00, 0x09, 0x03, 0xAB, 0xCD, 0xFF, 0xFF, 0xFF, 0x7B, 0xF9]) =
    .ok (.configFrame 0x03 0xABCD [0xFF, 0xFF, 0xFF] 0x7BF9) := by decide
theorem test_decode_rejects :
    decode (.request ⟨0x1, []⟩) = .error (.malformedRequest 0x1) ∧
    decode (.frame [0x7E, 0x00, 0x08, 0x01, 0x00, 0x00, 0xD5]) = .error .shortFrame ∧
    decode (.frame [0x7F, 0x00, 0x08, 0x01, 0x00, 0x00, 0xD5, 0xEF, 0x41]) = .error .badHeader ∧
    decode (.frame [0x7E, 0x00, 0x08, 0x01, 0x00, 0x00, 0xD5, 0xEF]) = .error .lengthMismatch ∧
    decode (.frame [0x7E, 0x00, 0x0A, 0x01, 0x00, 0x00, 0xD5, 0xAB, 0xC2]) = .error (.undefinedType 0x0A) := by decide
theorem test_table_words_requests :
    [0x0, 0x1, 0x2, 0x3, 0x4, 0x5, 0x6, 0x7, 0x8].map (decodeTableWord 8) =
      [some .crcClear, some (.crcUpdate 0), some .crcRead, some (.crc16 []), some (.encode 0 0 0), some (.decode []),
       some (.ackCheck (.bytes [])), some (.scanExtract (.bytes [])), some (.reserved 0)] := by decide
theorem test_table_words_frames :
    [0x7E0007, 0x7E0008, 0x7E0009].map (decodeTableWord 24) =
      [some (.readFrame 0 0 [] 0), some (.writeFrame 0 0 [] 0), some (.configFrame 0 0 [] 0)] := by decide

/-! ## One step of each instruction -/

/-- 95_test_vectors.md P5: a reset in the middle of an incremental CRC. -/
theorem test_reset_line : step (running [.reset] midway) = .next { midway with acc := 0x0000 } :=
  next_of (by decide)
theorem test_crcClear : exec .crcClear midway = .next { midway with
    acc := 0x0000, responses := [⟨.ok, .none, .empty⟩, ⟨.ok, .none, .empty⟩] } :=
  next_of (by decide)
/-- 95_test_vectors.md 2.1: ACC 0x8108, byte 0x01, index 0x80. -/
theorem test_crcUpdate : ∃ t, exec (.crcUpdate 0x01) { midway with acc := 0x8108 } = .next t ∧ t.acc = 0x9988 := ⟨_, rfl, by decide⟩
/-- 95_test_vectors.md 2.1: ACC 0x1234, byte 0x12, index 0x00. -/
theorem test_crcUpdate_index_zero : ∃ t, exec (.crcUpdate 0x12) { midway with acc := 0x1234 } = .next t ∧ t.acc = 0x3400 :=
  ⟨_, rfl, by decide⟩
theorem test_crcRead : Answers .crcRead { midway with acc := 0xEF41 } ⟨.ok, .none, .crc 0xEF41 [0xEF, 0x41]⟩ :=
  next_of (by decide)
/-- 95_test_vectors.md 2.1: FF FF FF FF gives 0x99CF. -/
theorem test_crc16 : Answers (.crc16 [0xFF, 0xFF, 0xFF, 0xFF]) midway ⟨.ok, .none, .crc 0x99CF [0x99, 0xCF]⟩ :=
  next_of (by decide)
/-- 95_test_vectors.md P1: CRC16 of 35 36, with an incremental CRC under way (90_conflicts.md C7). -/
theorem test_crc16_private : Answers (.crc16 [0x35, 0x36]) midway ⟨.ok, .none, .crc 0xACF5 [0xAC, 0xF5]⟩ :=
  next_of (by decide)
/-- 95_test_vectors.md 2.2. -/
theorem test_encode : Answers (.encode 0x09 0xABCD 0xFFFFFF) midway
    ⟨.ok, .none, .frame [0x7E, 0x00, 0x09, 0x03, 0xAB, 0xCD, 0xFF, 0xFF, 0xFF, 0x7B, 0xF9]⟩ :=
  next_of (by decide)
/-- 95_test_vectors.md 2.2: the type is checked first, then the address. -/
theorem test_encode_order :
    Answers (.encode 0xFF 0x10000 (2 ^ 3000)) midway ⟨.encodingError, .badTypeCode, .typeCode 0xFF⟩ ∧
    Answers (.encode 0x09 0x10000 (2 ^ 2040)) midway ⟨.encodingError, .addressRange, .number 0x10000⟩ :=
  ⟨next_of (by decide +kernel), next_of (by decide +kernel)⟩
/-- 95_test_vectors.md 2.3. -/
theorem test_decode_ok : Answers (.decode [0x7E, 0x00, 0x09, 0x03, 0xAB, 0xCD, 0xFF, 0xFF, 0xFF, 0x7B, 0xF9]) midway
    ⟨.ok, .none, .command 0x09 0xABCD 0xFFFFFF⟩ :=
  next_of (by decide)
/-- 95_test_vectors.md 2.3: a changed type byte reports BAD_CRC. -/
theorem test_decode_badCrc : Answers (.decode [0x7E, 0x00, 0x0A, 0x01, 0x00, 0x00, 0xD5, 0xEF, 0x41]) midway
    ⟨.protocolError, .badCrc, .crcs 0xEF41 0xABC2⟩ :=
  next_of (by decide)
theorem test_ackCheck : Answers (.ackCheck (.bytes [0x02, 0x00, 0x00, 0x01, 0x00, 0x33, 0x31])) midway
    ⟨.ok, .none, .ack [0x02, 0x00, 0x00, 0x01, 0x00, 0x33, 0x31]⟩ :=
  next_of (by decide)
theorem test_ackCheck_rejected : Answers (.ackCheck (.bytes [0x02, 0x00, 0x00, 0x01, 0x00, 0x33, 0x31])) choosy
    ⟨.protocolError, .ackRejected, .ack [0x02, 0x00, 0x00, 0x01, 0x00, 0x33, 0x31]⟩ :=
  next_of (by decide)
/-- 95_test_vectors.md 2.5. -/
theorem test_scanExtract : Answers (.scanExtract (.bytes [0x41, 0x0D, 0x42, 0x0D])) midway
    ⟨.ok, .none, .scan [0x41] [0x42, 0x0D]⟩ :=
  next_of (by decide)
theorem test_scanExtract_no_terminator : Answers (.scanExtract (.bytes [0x31, 0x32, 0x33])) midway
    ⟨.timeoutError, .noTerminator, .number 3⟩ :=
  next_of (by decide)
/-- 95_test_vectors.md 2.6. -/
theorem test_reserved : Answers (.reserved 0b000) midway ⟨.illegalOp, .reservedOp, .opCode 0x8⟩ ∧
    Answers (.reserved 0b111) midway ⟨.illegalOp, .reservedOp, .opCode 0xF⟩ :=
  ⟨next_of (by decide), next_of (by decide)⟩
/-- 41_encode.md R76: the example's frame, handed to the block. -/
theorem test_readFrame : Answers (.readFrame 0x01 0x0000 [0x00] 0x1160) midway ⟨.ok, .none, .command 0x07 0x0000 0x00⟩ :=
  next_of (by decide)
theorem test_writeFrame : Answers (.writeFrame 0x02 0x0082 [0x15, 0x0D] 0x31D0) midway
    ⟨.ok, .none, .command 0x08 0x0082 0x150D⟩ :=
  next_of (by decide)
theorem test_configFrame : Answers (.configFrame 0x01 0x0000 [0x00] 0xDEC8) midway ⟨.ok, .none, .command 0x09 0x0000 0x00⟩ :=
  next_of (by decide)
/-- A word of the table fetched and run as the first instruction after reset: a CRC_CLEAR, and a frame with
LEN 0 and no CRC (the CRC of 07 00 00 00 by hand, by the bitwise form of 40_crc.md R70). -/
theorem test_first_step :
    step (State.reset.withFetchWord 8 0x0) = .next { State.reset with responses := [⟨.ok, .none, .empty⟩] } ∧
    step (State.reset.withFetchWord 24 0x7E0007) =
      .next { State.reset with responses := [⟨.protocolError, .badCrc, .crcs 0x0000 0x512D⟩] } :=
  ⟨next_of (by decide), next_of (by decide)⟩
/-- 95_test_vectors.md 2.1: entries of TABLE. -/
theorem test_table : table 0x01 = 0x1021 ∧ table 0x08 = 0x8108 ∧ table 0x67 = 0x1C41 ∧ table 0x80 = 0x9188 := by decide

/-! ## Witnesses -/

theorem witness_CrcOfMessageWithItsCrcIsZero :
    Answers (.crc16 [0x08, 0x01, 0x00, 0x00, 0xD5]) midway ⟨.ok, .none, .crc 0xEF41 [0xEF, 0x41]⟩ ∧
    Answers (.encode 0x08 0x0000 0xD5) midway ⟨.ok, .none, .frame [0x7E, 0x00, 0x08, 0x01, 0x00, 0x00, 0xD5, 0xEF, 0x41]⟩ :=
  ⟨next_of (by decide), next_of (by decide)⟩
theorem witness_CrcOperationsNeverFail :
    Instr.crcUpdate 0xFF ∈ [Instr.crcClear, .crcUpdate 0xFF, .crcRead, .crc16 []] := by decide
/-- 95_test_vectors.md 2.2, "Payload lengths": the least and the greatest value of one byte, of two, and of 255. -/
theorem witness_PayloadLengthIsMinimal :
    ∀ p ∈ [(0x01, 1), (0xFF, 1), (0x100, 2), (0xFFFF, 2), (2 ^ 2032, 255), (2 ^ 2040 - 1, 255)],
      1 ≤ p.2 ∧ 2 ^ (8 * (p.2 - 1)) ≤ p.1 ∧ p.1 < 2 ^ (8 * p.2) ∧ payloadLen p.1 = p.2 := by decide +kernel
theorem witness_EncodeRaisesFirstFailingCheck :
    ¬ DefinedType 0x06 ∧ ¬ DefinedType 0x0A ∧ (DefinedType 0x08 ∧ 0xFFFF < 0x10000) ∧
    (DefinedType 0x08 ∧ 0xFFFF ≤ 0xFFFF ∧ 255 < payloadLen (2 ^ 2040)) := by decide +kernel
theorem witness_legal_commands :
    LegalCommand 0x07 0x0000 0 ∧ LegalCommand 0x08 0xFFFF 0x100 ∧ LegalCommand 0x09 0xFFFF (2 ^ 2040 - 1) := by decide +kernel
theorem witness_illegal_commands :
    ¬ LegalCommand 0x06 0x0000 0 ∧ ¬ LegalCommand 0x0A 0x0000 0 ∧ ¬ LegalCommand 0x08 0x10000 0 ∧
    ¬ LegalCommand 0x08 0x0000 (2 ^ 2040) := by decide +kernel
/-- 95_test_vectors.md 2.3: the CRC is right for type 0x0A. -/
theorem witness_UndefinedTypeCodesAreRefused :
    ¬ DefinedType 0x0A ∧ [0x00, 0x00, 0xD5].length = 2 + (0x01 : Byte).toNat ∧
    (0xABC2 : Word).toNat = recurrenceCrc ([0x0A, 0x01] ++ [0x00, 0x00, 0xD5]) ∧
    Answers (.decode ([0x7E, 0x00, 0x0A, 0x01] ++ [0x00, 0x00, 0xD5] ++ wordBytes 0xABC2)) midway
      ⟨.protocolError, .badTypeFrame, .typeCode 0x0A⟩ ∧ DefinedType 0x09 :=
  ⟨by decide, by decide, by decide, next_of (by decide), by decide⟩
theorem witness_LengthByteCountsThePayload :
    Answers (.encode 0x07 0x0000 0) midway ⟨.ok, .none, .frame [0x7E, 0x00, 0x07, 0x01, 0x00, 0x00, 0x00, 0x11, 0x60]⟩ ∧
    ([0x7E, 0x00, 0x08, 0x00, 0x00, 0x00, 0x85, 0xC3] : List Byte)[3]? = some 0x00 ∧
    ([0x7E, 0x00, 0x08, 0x00] : List Byte)[3]? = some 0x00 :=
  ⟨next_of (by decide), by decide, by decide⟩
theorem witness_EncodingErrorsAreExactlyEncodes : ∃ u, exec (.encode 0x06 0x0000 0) midway = .next u ∧
    u.responses = midway.responses ++ [⟨.encodingError, .badTypeCode, .typeCode 0x06⟩] := ⟨_, rfl, by decide⟩
theorem witness_frame_types :
    ∀ f ∈ ([[0x7E, 0x00, 0x07, 0x01, 0x00, 0x00, 0x00, 0x11, 0x60], [0x7E, 0x00, 0x08, 0x02, 0x00, 0x82, 0x15, 0x0D, 0x31, 0xD0],
      [0x7E, 0x00, 0x09, 0x01, 0x00, 0x00, 0x00, 0xDE, 0xC8]] : List (List Byte)),
      canonicalFrame f = true ∧ (f[2]? = some 0x07 ∨ f[2]? = some 0x08 ∨ f[2]? = some 0x09) := by decide
theorem witness_frame_operands : (0xFFFF : Nat) ≤ 0xFFFF ∧ 2 ^ 2040 - 1 < 2 ^ 2040 := by decide +kernel
/-- One payload byte, zero; and two, the first not zero (95_test_vectors.md 2.2: 0x100 at 0xFFFF). -/
theorem witness_FramesHandedOverAreDecoded :
    ([0x00] : List Byte).length = (0x01 : Byte).toNat ∧ 1 ≤ ([0x00] : List Byte).length ∧
    (0x1160 : Word).toNat = recurrenceCrc ([0x07, 0x01, 0x00, 0x00] ++ [0x00]) ∧
    (0xDEC8 : Word).toNat = recurrenceCrc ([0x09, 0x01, 0x00, 0x00] ++ [0x00]) ∧
    ([0x01, 0x00] : List Byte).length = (0x02 : Byte).toNat ∧ ([0x01, 0x00] : List Byte).head? ≠ some 0x00 ∧
    (0xFE30 : Word).toNat = recurrenceCrc ([0x08, 0x02, 0xFF, 0xFF] ++ [0x01, 0x00]) := by decide
/-- 95_test_vectors.md 2.3: seven bytes; each header byte; one byte too many and one too few, which is also the least count. -/
theorem witness_DecodeChecksInOrder_structure :
    ([] : List Byte).length < 8 ∧ ([0x02, 0x00, 0x00, 0x01, 0x00, 0x33, 0x31] : List Byte).length < 8 ∧
    (6 ≤ ([0x08, 0x00, 0x00, 0x00, 0x85, 0xC3] : List Byte).length ∧ ((0x7F : Byte) ≠ 0x7E ∨ (0x00 : Byte) ≠ 0x00)) ∧
    ((0x7E : Byte) ≠ 0x7E ∨ (0x01 : Byte) ≠ 0x00) ∧
    (4 ≤ ([0x00, 0x00, 0xD5, 0xEF] : List Byte).length ∧
      ([0x00, 0x00, 0xD5, 0xEF] : List Byte).length ≠ 4 + (0x01 : Byte).toNat) ∧
    ([0x00, 0x00, 0xD5, 0xEF, 0x41, 0x00] : List Byte).length ≠ 4 + (0x01 : Byte).toNat := by decide
/-- 95_test_vectors.md 2.3, from BAD_CRC on: swapped CRC bytes; type 0x0A; LEN 0; payload 00 D5; and accepted, one zero byte and
two bytes. -/
theorem witness_DecodeChecksInOrder_contents :
    (([0xD5] : List Byte).length = (0x01 : Byte).toNat ∧
      (0x41 : Byte).toNat * 256 + (0xEF : Byte).toNat ≠ recurrenceCrc ([0x08, 0x01, 0x00, 0x00] ++ [0xD5])) ∧
    ((0xAB : Byte).toNat * 256 + (0xC2 : Byte).toNat = recurrenceCrc ([0x0A, 0x01, 0x00, 0x00] ++ [0xD5]) ∧ ¬ DefinedType 0x0A) ∧
    (([] : List Byte).length = (0x00 : Byte).toNat ∧
      (0x85 : Byte).toNat * 256 + (0xC3 : Byte).toNat = recurrenceCrc ([0x08, 0x00, 0x00, 0x00] ++ []) ∧ DefinedType 0x08) ∧
    (([0x00, 0xD5] : List Byte).length = (0x02 : Byte).toNat ∧ 1 < ([0x00, 0xD5] : List Byte).length ∧
      (0xD2 : Byte).toNat * 256 + (0x19 : Byte).toNat = recurrenceCrc ([0x08, 0x02, 0x00, 0x00] ++ [0x00, 0xD5]) ∧
      ([0x00, 0xD5] : List Byte).head? = some 0x00) ∧
    ((0x11 : Byte).toNat * 256 + (0x60 : Byte).toNat = recurrenceCrc ([0x07, 0x01, 0x00, 0x00] ++ [0x00]) ∧
      ([0x00] : List Byte) ≠ [] ∧ ([0x00] : List Byte).length = 1) ∧
    ((0xFE : Byte).toNat * 256 + (0x30 : Byte).toNat = recurrenceCrc ([0x08, 0x02, 0xFF, 0xFF] ++ [0x01, 0x00]) ∧
      ([0x01, 0x00] : List Byte).head? ≠ some 0x00) := by decide
theorem witness_EncodeInvertsDecode : Answers (.decode [0x7E, 0x00, 0x08, 0x01, 0x00, 0x00, 0xD5, 0xEF, 0x41]) midway
    ⟨.ok, .none, .command 0x08 0x0000 0xD5⟩ :=
  next_of (by decide)
/-- 95_test_vectors.md 2.4: none, six, eight and seven bytes, the seven under the default policy and under one that refuses
them. -/
theorem witness_AckCheckValidatesTheRead :
    ([] : List Byte).length < 7 ∧ ([0x02, 0x00, 0x00, 0x01, 0x00, 0x33] : List Byte).length < 7 ∧
    7 < ([0x02, 0x00, 0x00, 0x01, 0x00, 0x33, 0x31, 0x00] : List Byte).length ∧
    ([0x02, 0x00, 0x00, 0x01, 0x00, 0x33, 0x31] : List Byte).length = 7 ∧
    ackAccept choosy.ackPolicy [0x02, 0x00, 0x00, 0x01, 0x00, 0x33, 0x31] = false ∧
    ackAccept choosy.ackPolicy [0x02, 0x00, 0x01, 0x01, 0x00, 0x33, 0x31] = true ∧
    midway.ackPolicy = State.reset.ackPolicy := by decide
theorem witness_AckAcceptIsAnyPredicate : (List.replicate 7 (0xFF : Byte)).length = 7 := by decide
theorem witness_ScanExtractCutsAtFirstTerminator :
    (0x0D : Byte) ∉ ([] : List Byte) ∧ (0x0D : Byte) ∉ ([0x36, 0x39, 0x30] : List Byte) := by decide
theorem witness_ReservedCodesAreIllegalOps : 8 ≤ (0x8 : BitVec 4).toNat ∧ 8 ≤ (0xF : BitVec 4).toNat := by decide
theorem witness_TransportErrorsAreTheTransports :
    ∃ u, exec (.scanExtract (.bytes [0x36, 0x39, 0x30])) midway = .next u ∧
      u.responses = midway.responses ++ [⟨.timeoutError, .noTerminator, .number 3⟩] := ⟨_, rfl, by decide⟩
theorem witness_ResponsesFollowTheStatusTable :
    decode (.request ⟨0x6, [.result .fail]⟩) = .ok (.ackCheck .fail) ∧ ∃ t, exec (.ackCheck .fail) midway = .next t :=
  ⟨by decide, _, rfl⟩
theorem witness_FailingOperationWritesNoState :
    ∃ t, exec (.decode []) midway = .next t ∧ t.responses = midway.responses ++ [⟨.protocolError, .shortFrame, .number 0⟩] ∧
      Reason.shortFrame ≠ .none := ⟨_, rfl, by decide, by decide⟩
theorem witness_PrivateCrcLeavesAccAlone :
    Answers (.encode 0x08 0x0002 0x01) midway ⟨.ok, .none, .frame [0x7E, 0x00, 0x08, 0x01, 0x00, 0x02, 0x01, 0x02, 0xDA]⟩ ∧
    Answers (.decode [0x7E, 0x00, 0x08, 0x01, 0x00, 0x00, 0xD5, 0x41, 0xEF]) midway
      ⟨.protocolError, .badCrc, .crcs 0x41EF 0xEF41⟩ :=
  ⟨next_of (by decide), next_of (by decide)⟩
theorem witness_OnlyCrcReadRevealsAcc :
    Instr.ackCheck .timeout ≠ .crcRead ∧ midway.ackPolicy = State.reset.ackPolicy ∧ midway.acc ≠ State.reset.acc ∧
    Answers .crcRead State.reset ⟨.ok, .none, .crc 0x0000 [0x00, 0x00]⟩ ∧
    Answers .crcRead { midway with acc := 0x0000 } ⟨.ok, .none, .crc 0x0000 [0x00, 0x00]⟩ :=
  ⟨by decide, by decide, by decide, next_of (by decide), next_of (by decide)⟩
theorem witness_OperationsAreIdempotentExceptUpdate : ∀ b, Instr.crcClear ≠ .crcUpdate b := by simp
theorem witness_OperationsTakeEffectInIssueOrder :
    (∀ i ∈ [Instr.crcUpdate 0x01, .reserved 0b001, .crcRead], WellFormed i = true) ∧
    (running [.issue (.request ⟨0x1, [.byte 0x01]⟩), .issue (.request ⟨0x9, []⟩), .issue (.request ⟨0x2, []⟩), .reset] midway).program
      = [Instr.crcUpdate 0x01, .reserved 0b001, .crcRead].map (fun i => HostLine.issue (encode i)) ++ [.reset] := by decide
theorem witness_EveryStepKeepsTheStateLegal :
    encoded.legal = true ∧ (running [.write] encoded).legal = true ∧ waiting.legal = true ∧ triggered.legal = true ∧
    step (running [.write] encoded) = .next waiting :=
  ⟨by decide, by decide, by decide, by decide, next_of (by decide)⟩
theorem witness_DecodeOfEncodeIsIdentity : WellFormed (.writeFrame 0x02 0x0082 [0x15, 0x0D] 0x31D0) = true ∧
    WellFormed (.encode 0xFF 0x10000 0) = true := by decide
theorem witness_EncodeOfDecodeIsIdentity : decode (.request ⟨0x9, [.nat 5]⟩) = .ok (.reserved 0b001) ∧
    decode (.request ⟨0x6, [.result .fail]⟩) = .ok (.ackCheck .fail) := by decide
/-- A request, a table word, bytes that are no frame, a request without its operand, and nothing. -/
theorem witness_StepRunsTheDecodedInstruction :
    (running [.issue (.request ⟨0x1, [.byte 0x01]⟩)] midway).program = [.issue (.request ⟨0x1, [.byte 0x01]⟩)] ∧
    decodeTableWord 24 0x7E0009 = some (.configFrame 0 0 [] 0) ∧
    decode (.frame [0x7E]) = .error .shortFrame ∧ decode (.request ⟨0x1, []⟩) = .error (.malformedRequest 0x1) ∧
    midway.program = [] := by decide
theorem test_step_gives_bytes_to_decode : step (running [.issue (.frame [0x7E])] midway) =
    .next { midway with responses := midway.responses ++ [⟨.protocolError, .shortFrame, .number 1⟩] } :=
  next_of (by decide)
/-- One state for each way a host line stops the machine. -/
theorem witness_OnlyHostLinesStopTheMachine :
    step (running [.issue (.request ⟨0x1, []⟩)] midway) = .refused (.malformedRequest 0x1) ∧
    step (running [.write] midway) = .fault .nothingToWrite ∧
    step (running [.write] waiting) = .refused .overlappedCommand ∧
    step (running [.readExact7] encoded) = .refused .readWithoutCommand ∧
    step (running [.readUntilTerminator] encoded) = .refused .readWithoutCommand ∧
    step (running [.readExact7] triggered) = .refused .wrongResponseShape ∧
    step (running [.readUntilTerminator] waiting) = .refused .wrongResponseShape ∧
    step (running [.ackCheckRx] waiting) = .fault .noTransportResult ∧
    step (running [.scanExtractRx] waiting) = .fault .noTransportResult :=
  ⟨refusal_of (by decide), fault_of (by decide), refusal_of (by decide), refusal_of (by decide), refusal_of (by decide),
    refusal_of (by decide), refusal_of (by decide), fault_of (by decide), fault_of (by decide)⟩
/-- Other operations between ENCODE and the write do not matter, an ENCODE that failed does (41_encode.md R75). -/
theorem test_write_the_last_encode :
    lastFrame { encoded with responses := encoded.responses ++ [⟨.ok, .none, .empty⟩, ⟨.timeoutError, .transportTimeout, .empty⟩] }
      = some [0x7E, 0x00, 0x08, 0x01, 0x00, 0x00, 0xD5, 0xEF, 0x41] ∧
    lastFrame { encoded with responses := encoded.responses ++ [⟨.encodingError, .badTypeCode, .typeCode 0x06⟩] } = none := by decide
/-- 95_test_vectors.md P5. -/
theorem witness_ResetBetweenOperationsRestartsTheCrc :
    (running [.issue (.request ⟨0x1, [.byte 0x31]⟩), .reset, .issue (.request ⟨0x1, [.byte 0x01]⟩)] midway).program =
      [0x31].map (fun b => HostLine.issue (encode (.crcUpdate b))) ++
        .reset :: [0x01].map (fun b => HostLine.issue (encode (.crcUpdate b))) ++ [] := by decide
theorem witness_PseudoOperationsAreOneRoundTrip :
    let s := receiving [.bytes [0x36, 0x39, 0x30, 0x0D], .timeout]
    s.host.awaiting = none ∧ s.host.incoming = .bytes [0x36, 0x39, 0x30, 0x0D] :: [.timeout] ∧
    (running (triggerScanLines ++ [.reset]) s).program = triggerScanLines ++ [.reset] ∧
    (running disableAllFormatsLines s).program = disableAllFormatsLines ++ [] ∧
    (running (enableFormatLines .pdf417 false) s).program = enableFormatLines .pdf417 false ++ [] ∧
    (running saveConfigLines s).program = saveConfigLines ++ [] := by decide
/-- Four good acknowledgements (95_test_vectors.md P2's bytes), and a failing one after none, one, two and three good ones. -/
theorem witness_ConfigureStopsOnlyWhenStrict :
    let good : TransportResult := .bytes [0x02, 0x00, 0x00, 0x01, 0x00, 0x33, 0x31]
    let short : TransportResult := .bytes [0x02, 0x00, 0x00]
    midway.host.awaiting = none ∧ (ackResponse midway.ackPolicy good).status = .ok ∧
    (ackResponse midway.ackPolicy short).status ≠ .ok ∧
    (∀ results ∈ [[], [good], [good, good], [good, good, good]], results.length < 4 ∧
      (running (configureLines .strict) (receiving (results ++ [short]))).program = configureLines .strict ++ [] ∧
      (running (configureLines .strict) (receiving (results ++ [short]))).host.incoming = results ++ short :: []) ∧
    (running (configureLines .strict) (receiving [good, good, good, good])).host.incoming = [good, good, good, good] ++ [] ∧
    (running (configureLines .bestEffort) (receiving [short, .timeout, .fail, good])).program = configureLines .bestEffort ++ [] := by
  decide
theorem witness_HostDutiesAreRefusedWhenBroken :
    lastFrame (running [.write] midway) = none ∧
    (lastFrame (running [.write] encoded) = some [0x7E, 0x00, 0x08, 0x01, 0x00, 0x00, 0xD5, 0xEF, 0x41] ∧
      (running [.write] encoded).host.awaiting = none) ∧
    (lastFrame (running [.write] waiting) = some [0x7E, 0x00, 0x08, 0x01, 0x00, 0x00, 0xD5, 0xEF, 0x41] ∧
      (running [.write] waiting).host.awaiting ≠ none) ∧
    (running [.readExact7] waiting).host.awaiting = some .ack ∧ (running [.readExact7] encoded).host.awaiting = none ∧
    (running [.readUntilTerminator] triggered).host.awaiting = some .scan := by decide
/-- 70_reset_and_hazards.md R123, response shape: a WRITE to the trigger register with another value is not TRIGGER_SCAN. -/
theorem test_response_shape :
    responseShape [0x7E, 0x00, 0x08, 0x01, 0x00, 0x02, 0x01, 0x02, 0xDA] = .scan ∧
    responseShape (commandFrame 0x08 0x0002 0x00) = .ack ∧ responseShape (commandFrame 0x09 0x0000 0x00) = .ack := by decide
theorem witness_ReadFrameIsBuiltAndRecognised :
    HostLine.issue (encode (.encode 0x08 0x0002 0x01)) ∈ triggerScanLines ++ disableAllFormatsLines ++ saveConfigLines ++
      configureLines .strict ++ configureLines .bestEffort ∧
    HostLine.issue (encode (.encode 0x08 0x0055 1)) ∈ enableFormatLines .pdf417 true := by decide
theorem witness_FrameResponsesFollowTheStatusTable :
    decode (.frame [0x7E, 0x00, 0x07, 0x00, 0x00, 0x00, 0x00, 0x00]) = .ok (.readFrame 0 0 [] 0) ∧
    ∃ t, exec (.readFrame 0 0 [] 0) midway = .next t := ⟨by decide, _, rfl⟩

end Sys2Proof.Tests
end

section
/-! PROOFS. The family of 10_state.md: CRC16, ENCODE and DECODE use an accumulator of their own (R24). -/

namespace Sys2Proof.Machine

/-- An operation that every state answers alike can stand between two CRC_UPDATEs: `ACC` ends as it does without it. -/
theorem execAll_between_updates {i : Instr} {r : Response} (hi : ∀ s, Answers i s r) (s : State) (b b' : Byte) :
    ∃ u w, execAll [.crcUpdate b, i, .crcUpdate b'] s = .next u ∧ execAll [.crcUpdate b, .crcUpdate b'] s = .next w ∧
      u.acc = w.acc := by
  have first := exec_crcUpdate s b
  have between := (execAll_cons [i, .crcUpdate b'] first).trans (execAll_cons [.crcUpdate b'] (hi _))
  have without := execAll_cons [.crcUpdate b'] first
  exact ⟨_, _, between.trans (execAll_cons [] (exec_crcUpdate _ b')), without.trans (execAll_cons [] (exec_crcUpdate _ b')),
    by simp⟩

/-- CRC16, ENCODE and DECODE are answered by their operands alone (R24). -/
theorem exists_answer_of_privateCrc {data f : List Byte} {t : Byte} {a v : Nat} {i : Instr}
    (hi : i ∈ [Instr.crc16 data, .encode t a v, .decode f]) : ∃ r, ∀ s, Answers i s r := by
  simp only [List.mem_cons, List.not_mem_nil, or_false] at hi
  obtain rfl | rfl | rfl := hi
  · exact ⟨_, fun s => answers_crc16 s data⟩
  · exact ⟨_, fun s => answers_encode s t a v⟩
  · exact ⟨_, fun s => answers_decode s f⟩

/-- A frame that ENCODE answers with is R42's for its operands. -/
theorem eq_commandFrame_of_encodeResponse {t : Byte} {a v : Nat} {f : List Byte}
    (h : encodeResponse t a v = respondOk (.frame f)) : f = commandFrame t a v := by
  unfold encodeResponse at h
  split at h; · cases h
  split at h; · cases h
  split at h; · cases h
  cases h; rfl

/-- R86's structural checks: DECODE stops at one of them, or the frame is a layout with a fitting LEN. -/
theorem decodeResponse_cases (f : List Byte) :
    (f.length < frameOverhead ∧ decodeResponse f = raise .protocolError .shortFrame (.number f.length)) ∨
    (frameOverhead ≤ f.length ∧ (byteAt f 0 ≠ header0 ∨ byteAt f 1 ≠ header1) ∧
      decodeResponse f = raise .protocolError .badHeader (.header (byteAt f 0) (byteAt f 1))) ∨
    (frameOverhead ≤ f.length ∧ byteAt f 0 = header0 ∧ byteAt f 1 = header1 ∧
      f.length ≠ frameOverhead + (byteAt f 3).toNat ∧
      decodeResponse f = raise .protocolError .lengthMismatch (.lengths (frameOverhead + (byteAt f 3).toNat) f.length)) ∨
    ∃ t len a1 a0 payload c1 c0, f = layout header0 header1 t len a1 a0 payload c1 c0 ∧ payload.length = len.toNat := by
  by_cases hs : f.length < frameOverhead
  · exact .inl ⟨hs, if_pos hs⟩
  by_cases hh : byteAt f 0 ≠ header0 ∨ byteAt f 1 ≠ header1
  · exact .inr (.inl ⟨not_lt.1 hs, hh, by rw [decodeResponse, if_neg hs, if_pos hh]⟩)
  have ⟨h0, h1⟩ : byteAt f 0 = header0 ∧ byteAt f 1 = header1 := by simpa only [not_or, not_not] using hh
  by_cases hl : f.length = frameOverhead + (byteAt f 3).toNat
  · obtain ⟨b0, b1, t, len, a1, a0, payload, c1, c0, rfl, hp⟩ := exists_layout hl
    obtain rfl : b0 = header0 := h0
    obtain rfl : b1 = header1 := h1
    exact .inr (.inr (.inr ⟨t, len, a1, a0, payload, c1, c0, rfl, hp⟩))
  · exact .inr (.inr (.inl ⟨not_lt.1 hs, h0, h1, hl, by rw [decodeResponse, if_neg hs, if_neg hh]; exact if_pos hl⟩))

/-- A layout as header, the bytes its CRC covers, and the CRC (R43). -/
theorem layout_eq_append (b0 b1 t len a1 a0 c1 c0 : Byte) (payload : List Byte) :
    layout b0 b1 t len a1 a0 payload c1 c0 =
      [b0, b1] ++ ([t, len, a1, a0] ++ payload) ++ wordBytes (wordOfBytes c1 c0) := by
  simp [layout, wordBytes]

/-- A BAD_CRC reports the CRC at the end of the frame and the CRC of the bytes that it covers. -/
theorem body_of_decodeResponse_badCrc {f : List Byte} {received computed : Word}
    (h : decodeResponse f = raise .protocolError .badCrc (.crcs received computed)) :
    ∃ body, f = [header0, header1] ++ body ++ wordBytes received ∧ computed = crcOf body := by
  obtain ⟨-, hr⟩ | ⟨-, -, hr⟩ | ⟨-, -, -, -, hr⟩ | ⟨t, len, a1, a0, payload, c1, c0, rfl, hp⟩ := decodeResponse_cases f
  · cases hr.symm.trans h
  · cases hr.symm.trans h
  · cases hr.symm.trans h
  rw [decodeResponse_layout _ _ _ _ _ _ _ hp] at h
  split at h
  · cases h
    exact ⟨_, layout_eq_append .., rfl⟩
  split at h; · cases h
  split at h; · cases h
  split at h <;> cases h

/-- Settles O40: the first clause from the answers being the same in every state, the others from `crcOf` being the
document's recurrence on the bytes each operation feeds to it. -/
theorem privateCrcLeavesAccAlone : Obligations.PrivateCrcLeavesAccAlone := by
  refine ⟨fun data f t a v i hi => ?anyState, fun s data => ?crc16, fun s t a v f h => ?encode,
    fun s f received computed h => ?decode⟩
  case anyState =>
    obtain ⟨r, hr⟩ := exists_answer_of_privateCrc hi
    exact ⟨⟨r, hr⟩, execAll_between_updates hr⟩
  case crc16 => exact ⟨crcOf data, _, answers_crc16 s data, toNat_crcOf data⟩
  case encode =>
    have hf : f = commandFrame t a v := eq_commandFrame_of_encodeResponse ((answers_encode s t a v).unique h)
    exact ⟨commandBody t a v, _, hf, toNat_crcOf _⟩
  case decode =>
    obtain ⟨body, hf, rfl⟩ := body_of_decodeResponse_badCrc ((answers_decode s f).unique h)
    exact ⟨body, hf, toNat_crcOf body⟩

end Sys2Proof.Machine
end

section
/-! PROOFS. The family of 30_encoding.md, first the facts it needs: which payloads are minimal, ENCODE and DECODE by the
check they stop at, and when a response follows the status table of R58. -/

namespace Sys2Proof.Machine

/-! ## Bytes -/

theorem wordBytes_eq (c : Word) : wordBytes c = [BitVec.ofNat 8 (c.toNat / 256), BitVec.ofNat 8 (c.toNat % 256)] := by
  rw [wordBytes, highByte_eq, lowByte_eq]

theorem bigEndian_eq_fromBe (s : List Byte) : bigEndian s = fromBe s := ofDigits_eq_fromBe s

theorem fromBe_beBytes_payloadLen (v : Nat) : fromBe (beBytes (payloadLen v) v) = v := by
  rw [fromBe_beBytes, Nat.mod_eq_of_lt (lt_pow_payloadLen v)]

/-- The value of at most 255 bytes fits in a payload. -/
theorem fromBe_lt_of_length_le {s : List Byte} (h : s.length ≤ 255) : fromBe s < 2 ^ 2040 :=
  calc fromBe s < 256 ^ s.length := fromBe_lt s
    _ ≤ 256 ^ 255 := Nat.pow_le_pow_right (by decide) h
    _ = 2 ^ 2040 := by rw [show (256 : Nat) = 2 ^ 8 from rfl, ← pow_mul]

/-- A byte sequence is the minimal payload of its value when its first byte is not zero, or it is one byte (R48). -/
theorem payloadLen_fromBe_eq_length_iff {s : List Byte} (hs : s ≠ []) :
    payloadLen (fromBe s) = s.length ↔ s.length = 1 ∨ s.head? ≠ some 0x00 := by
  obtain ⟨b, s, rfl⟩ := List.exists_cons_of_ne_nil hs
  have fits : fromBe (b :: s) < 2 ^ (8 * (b :: s).length) := by
    rw [pow_mul]; exact fromBe_lt _
  have first : 2 ^ (8 * ((b :: s).length - 1)) ≤ fromBe (b :: s) ↔ b ≠ 0x00 := by
    have rest := fromBe_lt s
    rw [List.length_cons, Nat.add_sub_cancel, pow_mul, fromBe_cons, show (2 : Nat) ^ 8 = 256 from rfl]
    constructor
    · rintro h rfl
      simp at h
      omega
    · intro h
      have : 1 ≤ b.toNat := Nat.pos_of_ne_zero fun h0 => h (BitVec.eq_of_toNat_eq h0)
      exact (Nat.le_mul_of_pos_left _ this).trans (Nat.le_add_right _ _)
  rw [payloadLen_eq_iff _ _ (List.length_pos_of_ne_nil hs), first]
  simp only [fits, and_true, List.head?_cons, ne_eq, Option.some.injEq]

/-! ## ENCODE by its checks -/

theorem typeDefined_iff (t : Byte) : typeDefined t = true ↔ DefinedType t := by
  simp only [typeDefined, typeRead, typeWrite, typeConfig, Bool.or_eq_true, beq_iff_eq, or_assoc]

theorem not_typeDefined_iff (t : Byte) : (!typeDefined t) = true ↔ ¬ DefinedType t := by
  rw [Bool.not_eq_true', ← Bool.not_eq_true, typeDefined_iff]

/-- R72, R73: ENCODE stops at the first of its three checks that fails, or gives R42's frame. -/
theorem encodeResponse_cases (t : Byte) (a v : Nat) :
    (¬ DefinedType t ∧ encodeResponse t a v = raise .encodingError .badTypeCode (.typeCode t)) ∨
    (DefinedType t ∧ 0xFFFF < a ∧ encodeResponse t a v = raise .encodingError .addressRange (.number a)) ∨
    (DefinedType t ∧ a ≤ 0xFFFF ∧ 255 < payloadLen v ∧
      encodeResponse t a v = raise .encodingError .payloadTooLong (.number (payloadLen v))) ∨
    (LegalCommand t a v ∧ encodeResponse t a v = respondOk (.frame (commandFrame t a v))) := by
  unfold encodeResponse
  split
  · next ht => exact .inl ⟨(not_typeDefined_iff t).1 ht, rfl⟩
  next ht =>
  have defined : DefinedType t := by rwa [not_typeDefined_iff, not_not] at ht
  split
  · next ha => exact .inr (.inl ⟨defined, ha, rfl⟩)
  next ha =>
  split
  · next hv => exact .inr (.inr (.inl ⟨defined, not_lt.1 ha, hv, rfl⟩))
  next hv => exact .inr (.inr (.inr ⟨⟨defined, not_lt.1 ha, (payloadLen_le_255_iff v).1 (not_lt.1 hv)⟩, rfl⟩))

theorem encodeResponse_of_legal {t : Byte} {a v : Nat} (h : LegalCommand t a v) :
    encodeResponse t a v = respondOk (.frame (commandFrame t a v)) := by
  obtain ⟨ht, ha, hv⟩ := h
  obtain ⟨hn, -⟩ | ⟨-, hn, -⟩ | ⟨-, -, hn, -⟩ | ⟨-, hr⟩ := encodeResponse_cases t a v
  · exact absurd ht hn
  · exact absurd ha (not_le.2 hn)
  · exact absurd ((payloadLen_le_255_iff v).2 hv) (not_le.2 hn)
  · exact hr

theorem encodeResponse_of_not_definedType {t : Byte} (h : ¬ DefinedType t) (a v : Nat) :
    encodeResponse t a v = raise .encodingError .badTypeCode (.typeCode t) :=
  if_pos ((not_typeDefined_iff t).2 h)

/-- A BAD_TYPE of ENCODE is of an undefined type code. -/
theorem not_definedType_of_encodeResponse_badType {t : Byte} {a v : Nat} {d : Data}
    (h : encodeResponse t a v = raise .encodingError .badTypeCode d) : ¬ DefinedType t := by
  obtain ⟨ht, -⟩ | ⟨-, -, hr⟩ | ⟨-, -, -, hr⟩ | ⟨-, hr⟩ := encodeResponse_cases t a v
  · exact ht
  · cases hr.symm.trans h
  · cases hr.symm.trans h
  · cases hr.symm.trans h

/-- ENCODE gives a frame for legal operands only, and it is R42's. -/
theorem legal_of_encodeResponse_frame {t : Byte} {a v : Nat} {f : List Byte}
    (h : encodeResponse t a v = respondOk (.frame f)) : LegalCommand t a v ∧ f = commandFrame t a v := by
  obtain ⟨-, hr⟩ | ⟨-, -, hr⟩ | ⟨-, -, -, hr⟩ | ⟨hl, hr⟩ := encodeResponse_cases t a v
  · cases hr.symm.trans h
  · cases hr.symm.trans h
  · cases hr.symm.trans h
  · exact ⟨hl, eq_commandFrame_of_encodeResponse h⟩

/-- LEN holds the whole payload length of a value that fits (R45). -/
theorem toNat_payloadLen_byte {v : Nat} (h : v < 2 ^ 2040) : (BitVec.ofNat 8 (payloadLen v)).toNat = payloadLen v := by
  have := (payloadLen_le_255_iff v).2 h
  rw [BitVec.toNat_ofNat, Nat.mod_eq_of_lt (by omega)]

/-! ## ENCODE's frame -/

/-- The payload ENCODE writes has no leading zero byte, unless it is one byte (R48). -/
theorem beBytes_payloadLen_minimal (v : Nat) :
    payloadLen v = 1 ∨ (beBytes (payloadLen v) v).head? ≠ some 0x00 := by
  have hne : beBytes (payloadLen v) v ≠ [] := by
    have := one_le_payloadLen v
    exact List.ne_nil_of_length_pos (by rwa [length_beBytes])
  have h := payloadLen_fromBe_eq_length_iff hne
  rw [fromBe_beBytes_payloadLen, length_beBytes] at h
  exact h.1 rfl

/-- The bytes the CRC covers, with ADDR high byte first (R42, R46). -/
theorem commandBody_eq_digits (t : Byte) (a v : Nat) :
    commandBody t a v =
      [t, BitVec.ofNat 8 (payloadLen v), BitVec.ofNat 8 (a / 256), BitVec.ofNat 8 (a % 256)] ++
        beBytes (payloadLen v) v := by
  have low : BitVec.ofNat 8 a = BitVec.ofNat 8 (a % 256) := BitVec.eq_of_toNat_eq (by simp)
  simp [commandBody, beBytes, low]

theorem length_commandFrame (t : Byte) (a v : Nat) : (commandFrame t a v).length = 8 + payloadLen v := by
  rw [commandFrame_eq_layout, length_layout, length_beBytes]

/-- R88's checks on a layout with a fitting LEN, by the fields. -/
theorem canonicalFrame_layout_iff (t len a1 a0 c1 c0 : Byte) (payload : List Byte) (hn : payload.length = len.toNat) :
    canonicalFrame (layout header0 header1 t len a1 a0 payload c1 c0) = true ↔
      DefinedType t ∧ payload ≠ [] ∧ (payload.length = 1 ∨ payload.head? ≠ some 0x00) ∧
        wordOfBytes c1 c0 = crcOf ([t, len, a1, a0] ++ payload) := by
  have crc : [c1, c0] = wordBytes (crcOf ([t, len, a1, a0] ++ payload)) ↔
      wordOfBytes c1 c0 = crcOf ([t, len, a1, a0] ++ payload) := by
    constructor
    · intro h
      obtain ⟨rfl, rfl⟩ : c1 = highByte _ ∧ c0 = lowByte _ := by simpa [wordBytes] using h
      exact wordOfBytes_high_low _
    · intro h
      rw [← h, wordBytes, highByte_wordOfBytes, lowByte_wordOfBytes]
  have header : (layout header0 header1 t len a1 a0 payload c1 c0).take 2 = [header0, header1] := rfl
  have nonempty : 1 ≤ payload.length ↔ payload ≠ [] := List.length_pos_iff
  by_cases hp : payload = []
  · simp [canonicalFrame, ← hn, hp]
  have first := byteAt_layout_6 header0 header1 t len a1 a0 c1 c0 payload hp
  simp only [canonicalFrame, byteAt_layout_2, byteAt_layout_3, length_layout, ← hn, frameOverhead, header,
    drop_layout_crc _ _ _ _ _ _ _ _ _ rfl, slice_layout_body _ _ _ _ _ _ _ _ _ rfl, beq_self_eq_true, Bool.and_eq_true,
    Bool.or_eq_true, beq_iff_eq, bne_iff_ne, decide_eq_true_eq, typeDefined_iff, crc, nonempty, ← first, ne_eq,
    Option.some.injEq, true_and, and_assoc]

/-- ENCODE's frame passes R88's checks. -/
theorem canonicalFrame_commandFrame {t : Byte} {a v : Nat} (h : LegalCommand t a v) :
    canonicalFrame (commandFrame t a v) = true := by
  obtain ⟨ht, -, hv⟩ := h
  have hlen : (beBytes (payloadLen v) v).length = payloadLen v := length_beBytes ..
  have hpos := one_le_payloadLen v
  rw [commandFrame_eq_layout, canonicalFrame_layout_iff _ _ _ _ _ _ _ (hlen.trans (toNat_payloadLen_byte hv).symm), hlen]
  exact ⟨ht, List.ne_nil_of_length_pos (by rwa [hlen]), beBytes_payloadLen_minimal v,
    by rw [wordOfBytes_high_low, commandBody_eq]⟩

/-! ## DECODE by its checks -/

/-- R86's checks of a frame whose structure holds: DECODE stops at one of them, or answers with the fields. -/
theorem decodeResponse_layout_cases (t len a1 a0 c1 c0 : Byte) (payload : List Byte) (hn : payload.length = len.toNat) :
    let f := layout header0 header1 t len a1 a0 payload c1 c0
    let received := wordOfBytes c1 c0
    let computed := crcOf ([t, len, a1, a0] ++ payload)
    (received ≠ computed ∧ decodeResponse f = raise .protocolError .badCrc (.crcs received computed)) ∨
    (received = computed ∧ ¬ DefinedType t ∧ decodeResponse f = raise .protocolError .badTypeFrame (.typeCode t)) ∨
    (received = computed ∧ DefinedType t ∧ payload = [] ∧ decodeResponse f = raise .protocolError .zeroLength .empty) ∨
    (received = computed ∧ DefinedType t ∧ 1 < payload.length ∧ payload.head? = some 0x00 ∧
      decodeResponse f = raise .protocolError .nonCanonical .empty) ∨
    (received = computed ∧ DefinedType t ∧ payload ≠ [] ∧ (payload.length = 1 ∨ payload.head? ≠ some 0x00) ∧
      decodeResponse f = respondOk (.command t (wordOfBytes a1 a0).toNat (fromBe payload))) := by
  dsimp only
  rw [decodeResponse_layout _ _ _ _ _ _ _ hn]
  simp only [not_typeDefined_iff]
  by_cases hc : wordOfBytes c1 c0 = crcOf ([t, len, a1, a0] ++ payload)
  swap
  · exact .inl ⟨hc, if_pos hc⟩
  rw [if_neg (not_not.2 hc)]
  by_cases ht : DefinedType t
  swap
  · exact .inr (.inl ⟨hc, ht, if_pos ht⟩)
  rw [if_neg (not_not.2 ht)]
  by_cases hp : payload = []
  · exact .inr (.inr (.inl ⟨hc, ht, hp, if_pos hp⟩))
  rw [if_neg hp]
  by_cases hm : 1 < payload.length ∧ payload.head? = some 0x00
  · exact .inr (.inr (.inr (.inl ⟨hc, ht, hm.1, hm.2, if_pos hm⟩)))
  · have hpos : 0 < payload.length := List.length_pos_iff.2 hp
    refine .inr (.inr (.inr (.inr ⟨hc, ht, hp, ?_, if_neg hm⟩)))
    by_cases h0 : payload.head? = some 0x00
    · exact .inl (by simp only [h0, and_true] at hm; omega)
    · exact .inr h0

/-- A BAD_TYPE of DECODE is of an undefined TYPE byte. -/
theorem not_definedType_of_decodeResponse_badType {f : List Byte} {d : Data}
    (h : decodeResponse f = raise .protocolError .badTypeFrame d) : ¬ DefinedType (byteAt f 2) := by
  obtain ⟨-, hr⟩ | ⟨-, -, hr⟩ | ⟨-, -, -, -, hr⟩ | ⟨t, len, a1, a0, payload, c1, c0, rfl, hp⟩ := decodeResponse_cases f
  · cases hr.symm.trans h
  · cases hr.symm.trans h
  · cases hr.symm.trans h
  obtain ⟨-, hr⟩ | ⟨-, ht, -⟩ | ⟨-, -, -, hr⟩ | ⟨-, -, -, -, hr⟩ | ⟨-, -, -, -, hr⟩ :=
    decodeResponse_layout_cases t len a1 a0 c1 c0 payload hp
  · cases hr.symm.trans h
  · exact ht
  · cases hr.symm.trans h
  · cases hr.symm.trans h
  · cases hr.symm.trans h

/-- DECODE never accepts LEN = 0. -/
theorem exists_decodeResponse_error_of_len_zero {f : List Byte} (h : byteAt f 3 = 0x00) :
    ∃ reason info, decodeResponse f = raise .protocolError reason info := by
  obtain ⟨-, hr⟩ | ⟨-, -, hr⟩ | ⟨-, -, -, -, hr⟩ | ⟨t, len, a1, a0, payload, c1, c0, rfl, hp⟩ := decodeResponse_cases f
  · exact ⟨_, _, hr⟩
  · exact ⟨_, _, hr⟩
  · exact ⟨_, _, hr⟩
  obtain rfl : len = 0x00 := h
  have empty : payload = [] := List.length_eq_zero_iff.1 hp
  obtain ⟨-, hr⟩ | ⟨-, -, hr⟩ | ⟨-, -, -, hr⟩ | ⟨-, -, -, -, hr⟩ | ⟨-, -, hne, -⟩ :=
    decodeResponse_layout_cases t 0x00 a1 a0 c1 c0 payload hp
  · exact ⟨_, _, hr⟩
  · exact ⟨_, _, hr⟩
  · exact ⟨_, _, hr⟩
  · exact ⟨_, _, hr⟩
  · exact absurd empty hne

/-! ## The status table -/

/-- A legal response's reason is listed, under its status and with R58's numbers. -/
theorem mem_statusRows_of_legal {r : Response} (h : legalResponse r = true) :
    (r.reason, r.status, statusCode r.status, reasonCode r.reason) ∈ statusRows := by
  obtain ⟨status, reason, data⟩ := r
  obtain ⟨hs, hd⟩ := Bool.and_eq_true_iff.1 h
  obtain rfl : status = reasonStatus reason := eq_of_beq hs
  have listed : reason ≠ .negativeOperand := by
    rintro rfl
    cases data <;> cases hd
  cases reason
  case negativeOperand => exact absurd rfl listed
  all_goals simp [statusRows, reasonStatus, statusCode, reasonCode]

/-- No operation has a diagnostic to give for success. -/
theorem diagnostic_none (i : Instr) : diagnostic .none i = none := ite_self _

/-- A success follows the table: its data is of the operation's kind, and legal. -/
theorem followsTable_respondOk {i : Instr} {d : Data} (hk : resultKind i d = true)
    (hl : legalResponse (respondOk d) = true) : FollowsTable i (respondOk d) :=
  ⟨mem_statusRows_of_legal hl, fun h => absurd rfl h, fun _ => hk, hl⟩

/-- An error follows the table: its data is the diagnostic named for the operation, and legal. -/
theorem followsTable_raise {i : Instr} {e : Status} {reason : Reason} {d : Data} (hd : diagnostic reason i = some d)
    (hl : legalResponse (raise e reason d) = true) : FollowsTable i (raise e reason d) := by
  refine ⟨mem_statusRows_of_legal hl, fun _ => hd, fun h => ?_, hl⟩
  obtain rfl : reason = .none := h
  cases (diagnostic_none i).symm.trans hd

/-- The rows of ENCODE. -/
theorem followsTable_encodeResponse (t : Byte) (a v : Nat) : FollowsTable (.encode t a v) (encodeResponse t a v) := by
  obtain ⟨ht, hr⟩ | ⟨-, ha, hr⟩ | ⟨-, -, hv, hr⟩ | ⟨hl, hr⟩ := encodeResponse_cases t a v <;> rw [hr]
  · exact followsTable_raise rfl ((not_typeDefined_iff t).2 ht)
  · exact followsTable_raise rfl (decide_eq_true ha)
  · exact followsTable_raise rfl (decide_eq_true hv)
  · exact followsTable_respondOk rfl (canonicalFrame_commandFrame hl)

/-- The rows of ACK_CHECK, under every policy. -/
theorem followsTable_ackResponse (p : AckPolicy) (rx : TransportResult) :
    FollowsTable (.ackCheck rx) (ackResponse p rx) := by
  cases rx with
  | fail => exact followsTable_raise rfl rfl
  | timeout => exact followsTable_raise rfl rfl
  | bytes s =>
    unfold ackResponse
    dsimp only
    split
    · next short => exact followsTable_raise rfl (decide_eq_true short)
    split
    · next long => exact followsTable_raise rfl (decide_eq_true long)
    have seven : (s.length == ackBytes) = true := beq_iff_eq.2 (by omega)
    split
    · exact followsTable_raise rfl seven
    · exact followsTable_respondOk rfl seven

/-- The bytes before the first terminator hold none. -/
theorem terminator_notMem_take {s : List Byte} {k : Nat} (h : terminatorIndex s = some k) :
    scanTerminator ∉ s.take k := by
  obtain ⟨_, -, before⟩ := List.findIdx?_eq_some_iff_getElem.1 h
  intro hm
  obtain ⟨j, hj, he⟩ := List.getElem_of_mem hm
  rw [List.getElem_take] at he
  exact before j (by simp at hj; omega) (beq_iff_eq.2 he)

/-- The rows of SCAN_EXTRACT. -/
theorem followsTable_scanResponse (rx : TransportResult) : FollowsTable (.scanExtract rx) (scanResponse rx) := by
  cases rx with
  | fail => exact followsTable_raise rfl rfl
  | timeout => exact followsTable_raise rfl rfl
  | bytes s =>
    unfold scanResponse
    dsimp only
    split
    · exact followsTable_raise rfl rfl
    · next k hk =>
      exact followsTable_respondOk rfl (by simpa [legalResponse, respondOk, reasonStatus] using terminator_notMem_take hk)

theorem resultKind_command_of_examines {i : Instr} (h : examines i = true) (t : Byte) (a v : Nat) :
    resultKind i (.command t a v) = true := by
  cases i with
  | decode _ | readFrame _ _ _ _ | writeFrame _ _ _ _ | configFrame _ _ _ _ => rfl
  | _ => cases h

/-- The rows of DECODE, for every instruction that makes DECODE's checks, on the bytes it examines. -/
theorem followsTable_decodeResponse {i : Instr} {f : List Byte} (hi : examines i = true) (hf : examined i = f) :
    FollowsTable i (decodeResponse f) := by
  obtain ⟨short, hr⟩ | ⟨-, header, hr⟩ | ⟨long, -, -, mismatch, hr⟩ |
    ⟨t, len, a1, a0, payload, c1, c0, rfl, hp⟩ := decodeResponse_cases f
  · subst hf
    rw [hr]
    exact followsTable_raise (if_pos hi) (decide_eq_true short)
  · subst hf
    rw [hr]
    exact followsTable_raise (if_pos hi) (Bool.or_eq_true_iff.2 (header.imp bne_iff_ne.2 bne_iff_ne.2))
  · subst hf
    rw [hr]
    have len : (byteAt (examined i) 3).toNat ≤ payloadMaxBytes := Nat.le_of_lt_succ (byteAt (examined i) 3).isLt
    exact followsTable_raise (if_pos hi) (Bool.and_eq_true_iff.2 ⟨rfl, Bool.and_eq_true_iff.2
      ⟨bne_iff_ne.2 (Ne.symm mismatch), decide_eq_true ⟨Nat.le_add_right .., Nat.add_le_add_left len _, long⟩⟩⟩)
  obtain ⟨hc, hr⟩ | ⟨-, ht, hr⟩ | ⟨-, -, -, hr⟩ | ⟨-, -, -, -, hr⟩ | ⟨-, ht, -, -, hr⟩ :=
    decodeResponse_layout_cases t len a1 a0 c1 c0 payload hp <;> rw [hr]
  · refine followsTable_raise ((if_pos hi).trans ?_) (bne_iff_ne.2 hc)
    have crc1 : 8 + payload.length - 2 = 6 + payload.length := by omega
    have crc0 : 8 + payload.length - 1 = 7 + payload.length := by omega
    rw [hf, length_layout, crc1, crc0, byteAt_layout_crc1 _ _ _ _ _ _ _ _ _ rfl,
      byteAt_layout_crc0 _ _ _ _ _ _ _ _ _ rfl, slice_layout_body _ _ _ _ _ _ _ _ _ rfl]
  · exact followsTable_raise ((if_pos hi).trans (by rw [hf, byteAt_layout_2])) ((not_typeDefined_iff t).2 ht)
  · exact followsTable_raise (if_pos hi) rfl
  · exact followsTable_raise (if_pos hi) rfl
  · have address : (wordOfBytes a1 a0).toNat ≤ 0xFFFF := Nat.le_of_lt_succ (wordOfBytes a1 a0).isLt
    have value : payloadLen (fromBe payload) ≤ 255 :=
      (payloadLen_le_255_iff _).2 (fromBe_lt_of_length_le (by have := len.isLt; omega))
    have operands : (typeDefined t && decide ((wordOfBytes a1 a0).toNat ≤ 0xFFFF)) = true :=
      Bool.and_eq_true_iff.2 ⟨(typeDefined_iff t).2 ht, decide_eq_true address⟩
    exact followsTable_respondOk (resultKind_command_of_examines hi ..)
      (Bool.and_eq_true_iff.2 ⟨rfl, Bool.and_eq_true_iff.2 ⟨operands, decide_eq_true value⟩⟩)

/-- A reserved code's number: bit 3 set, above its three low bits (R56). -/
theorem op_reserved (low : BitVec 3) : 1#1 ++ low = BitVec.ofNat 4 (8 + low.toNat) := by
  decide +revert

/-- R58 for every instruction: it delivers one response, which follows the table. -/
theorem exec_followsTable (i : Instr) (s : State) :
    ∃ r v, exec i s = .next (deliver r (setAcc v s)) ∧ FollowsTable i r := by
  cases i with
  | crcClear => exact ⟨_, _, exec_crcClear s, followsTable_respondOk rfl rfl⟩
  | crcUpdate b => exact ⟨_, _, exec_crcUpdate s b, followsTable_respondOk rfl rfl⟩
  | crcRead => exact ⟨_, s.acc, answers_crcRead s, followsTable_respondOk rfl (beq_self_eq_true _)⟩
  | crc16 data => exact ⟨_, s.acc, answers_crc16 s data, followsTable_respondOk rfl (beq_self_eq_true _)⟩
  | encode t a v => exact ⟨_, s.acc, answers_encode s t a v, followsTable_encodeResponse t a v⟩
  | decode f => exact ⟨_, s.acc, answers_decode s f, followsTable_decodeResponse rfl rfl⟩
  | ackCheck rx => exact ⟨_, s.acc, answers_ackCheck s rx, followsTable_ackResponse _ rx⟩
  | scanExtract rx => exact ⟨_, s.acc, answers_scanExtract s rx, followsTable_scanResponse rx⟩
  | reserved low =>
    have reservedBit : (1#1 ++ low).getLsbD 3 = true := by decide +revert
    have code : some (Data.opCode (BitVec.ofNat 4 (8 + low.toNat))) = some (.opCode (1#1 ++ low)) := by rw [op_reserved]
    exact ⟨_, s.acc, answers_reserved s low, followsTable_raise code reservedBit⟩
  | readFrame len addr p crc =>
    exact ⟨_, s.acc, answers_readFrame s len addr p crc, followsTable_decodeResponse rfl rfl⟩
  | writeFrame len addr p crc =>
    exact ⟨_, s.acc, answers_writeFrame s len addr p crc, followsTable_decodeResponse rfl rfl⟩
  | configFrame len addr p crc =>
    exact ⟨_, s.acc, answers_configFrame s len addr p crc, followsTable_decodeResponse rfl rfl⟩

/-! ## The statements -/

theorem answers_encode_of_eq {t : Byte} {a v : Nat} {r : Response} (s : State) (h : encodeResponse t a v = r) :
    Answers (.encode t a v) s r := h ▸ answers_encode s t a v

theorem answers_decode_of_eq {f : List Byte} {r : Response} (s : State) (h : decodeResponse f = r) :
    Answers (.decode f) s r := h ▸ answers_decode s f

theorem eq_crcOf_of_toNat_eq {c : Word} {data : List Byte} (h : c.toNat = recurrenceCrc data) : c = crcOf data :=
  BitVec.eq_of_toNat_eq (h.trans (toNat_crcOf data).symm)

/-- A whole frame with a right CRC and an undefined TYPE byte. -/
theorem decodeResponse_of_not_definedType {t len : Byte} {rest : List Byte} {c : Word} (ht : ¬ DefinedType t)
    (hl : rest.length = 2 + len.toNat) (hc : c.toNat = recurrenceCrc ([t, len] ++ rest)) :
    decodeResponse ([0x7E, 0x00, t, len] ++ rest ++ wordBytes c) =
      raise .protocolError .badTypeFrame (.typeCode t) := by
  match rest, hl with
  | a1 :: a0 :: payload, hl =>
    have fits : payload.length = len.toNat := by simp at hl; omega
    have crc : wordOfBytes (highByte c) (lowByte c) = crcOf ([t, len, a1, a0] ++ payload) := by
      rw [wordOfBytes_high_low]; exact eq_crcOf_of_toNat_eq hc
    change decodeResponse (layout header0 header1 t len a1 a0 payload (highByte c) (lowByte c)) = _
    rw [decodeResponse_layout _ _ _ _ _ _ _ fits, if_neg (not_not.2 crc), if_pos ((not_typeDefined_iff t).2 ht)]
  | [], hl | [_], hl => simp at hl; omega

/-- Settles O15: the payload is the value's minimal bytes and the CRC is that of ENCODE's body. -/
theorem encodeLaysOutTheFrame : Obligations.EncodeLaysOutTheFrame := by
  refine ⟨fun t a v => rfl, fun s t a v h => ⟨beBytes (payloadLen v) v, crcOf (commandBody t a v), ?_⟩⟩
  have hv : v < 2 ^ 2040 := h.2.2
  dsimp only
  rw [length_beBytes, ← commandBody_eq_digits, ← wordBytes_eq]
  refine ⟨?answer, toNat_crcOf _, one_le_payloadLen v, (payloadLen_le_255_iff v).2 hv, length_commandFrame t a v, ?value,
    (beBytes_payloadLen_minimal v).resolve_left⟩
  case answer => exact answers_encode_of_eq s (encodeResponse_of_legal h)
  case value => rw [bigEndian_eq_fromBe, fromBe_beBytes_payloadLen]

/-- Settles O17: ENCODE's and DECODE's type check, and for the defined types their inversion lemmas. -/
theorem undefinedTypeCodesAreRefused : Obligations.UndefinedTypeCodesAreRefused := by
  refine ⟨fun t => ?codes, rfl, rfl, rfl, fun s t a v ht => ?encode, fun s t len rest c ht hl hc => ?decode,
    fun s t a v rest d ht => ⟨fun h => ?encodeDefined, fun h => ?decodeDefined⟩⟩
  case codes => simp only [typeRead, typeWrite, typeConfig, List.mem_cons, List.not_mem_nil, or_false]
  case encode => exact answers_encode_of_eq s (encodeResponse_of_not_definedType ht a v)
  case decode => exact answers_decode_of_eq s (decodeResponse_of_not_definedType ht hl hc)
  case encodeDefined => exact not_definedType_of_encodeResponse_badType ((answers_encode s t a v).unique h) ht
  case decodeDefined => exact not_definedType_of_decodeResponse_badType ((answers_decode s _).unique h) ht

/-- Settles O18: LEN of ENCODE's frame by its layout, and DECODE's checks on a frame whose LEN is 0. -/
theorem lengthByteCountsThePayload : Obligations.LengthByteCountsThePayload := by
  refine ⟨fun s t a v f h => ?encode, fun s f h => ?decode⟩
  case encode =>
    obtain ⟨⟨-, -, hv⟩, rfl⟩ := legal_of_encodeResponse_frame ((answers_encode s t a v).unique h)
    have len := toNat_payloadLen_byte hv
    refine ⟨BitVec.ofNat 8 (payloadLen v), rfl, len, ?_⟩
    rw [len]
    exact ⟨one_le_payloadLen v, (payloadLen_le_255_iff v).2 hv, length_commandFrame t a v⟩
  case decode =>
    have len : byteAt f 3 = 0x00 := by rw [byteAt, List.getD_eq_getElem?_getD, h]; rfl
    obtain ⟨reason, info, hr⟩ := exists_decodeResponse_error_of_len_zero len
    exact ⟨reason, info, answers_decode_of_eq s hr⟩

/-- Settles O36: every instruction's response follows the table, so the ones that requests decode to. -/
theorem responsesFollowTheStatusTable : Obligations.ResponsesFollowTheStatusTable := by
  intro q i s t _ h
  obtain ⟨r, v, he, hr⟩ := exec_followsTable i s
  cases he.symm.trans h
  exact ⟨r, rfl, hr⟩

/-- Settles O34: bit 3 of the op code is tested before the operands, and the other three bits name the code. -/
theorem reservedCodesAreIllegalOps : Obligations.ReservedCodesAreIllegalOps := by
  refine ⟨fun op operands h => ⟨op.setWidth 3, ?decodes, fun s => ?answer⟩, fun s low => ?answerLow⟩
  case decodes =>
    have reservedBit : op.getLsbD 3 = true := by decide +revert
    exact if_pos reservedBit
  case answer =>
    have code : 1#1 ++ op.setWidth 3 = op := by decide +revert
    have answered := answers_reserved s (op.setWidth 3)
    rwa [code] at answered
  case answerLow => exact op_reserved low ▸ answers_reserved s low

end Sys2Proof.Machine
end

section
/-! PROOFS. The family of 40_crc.md: the step against the document's recurrence, and the four CRC operations with the whole
state each leaves. -/

namespace Sys2Proof.Machine

/-! ## The step and the fold -/

theorem length_rom : rom.length = 256 := by
  simp only [rom, romPart0, romPart1, romPart2, romPart3, List.length_append, List.length_cons, List.length_nil]

/-- R61: the index of a step lies in the ROM. -/
theorem crcStep_index_lt_length_rom (c : Word) (b : Byte) : (c.toNat >>> 8) ^^^ b.toNat < rom.length := by
  rw [← highByte_xor_index, length_rom]
  exact (highByte c ^^^ b).isLt

theorem crcStep_zero_zero : crcStep 0x0000 0x00 = 0x0000 := crcStep_highByte 0x0000

/-- The running value's own high byte, in the document's arithmetic. -/
theorem highByte_eq_shiftRight (c : Word) : highByte c = BitVec.ofNat 8 (c.toNat >>> 8) := by
  rw [highByte_eq, Nat.shiftRight_eq_div_pow]

/-- A step with the running value's own high byte, in the document's arithmetic (R63). -/
theorem toNat_crcStep_highByte (c : Word) : (crcStep c (highByte c)).toNat = (c.toNat <<< 8) &&& 0xFFFF := by
  rw [crcStep_highByte, BitVec.toNat_shiftLeft, show (0xFFFF : Nat) = 2 ^ 16 - 1 from rfl, Nat.and_two_pow_sub_one_eq_mod]

/-- Zero bytes leave a running value of zero. -/
theorem crcFold_replicate_zero (k : Nat) : crcFold 0x0000 (List.replicate k 0x00) = 0x0000 := by
  induction k with
  | zero => rfl
  | succ k ih => rw [List.replicate_succ, crcFold_cons, crcStep_zero_zero, ih]

/-- R65: leading zero bytes do not change the CRC. -/
theorem crcOf_replicate_zero_append (k : Nat) (data : List Byte) :
    crcOf (List.replicate k 0x00 ++ data) = crcOf data := by
  rw [crcOf, crcFold_append, crcInit, crcFold_replicate_zero]
  rfl

/-! ## The operations -/

/-- The result of CRC_READ and CRC16 in the document's arithmetic (R64). -/
theorem crcResult_eq (c : Word) :
    crcResult c = ⟨.ok, .none, .crc c [BitVec.ofNat 8 (c.toNat / 256), BitVec.ofNat 8 (c.toNat % 256)]⟩ := by
  rw [crcResult, wordBytes_eq, respondOk]

theorem answers_crcRead_of_acc {s : State} {c : Word} (h : s.acc = c) : Answers .crcRead s (crcResult c) :=
  h ▸ answers_crcRead s

theorem answers_crc16_of_crcOf {data : List Byte} {c : Word} (s : State) (h : crcOf data = c) :
    Answers (.crc16 data) s (crcResult c) :=
  h ▸ answers_crc16 s data

/-- What CRC_UPDATE leaves in `ACC`. -/
theorem exists_exec_crcUpdate_acc {s : State} {b : Byte} {c : Word} (h : crcStep s.acc b = c) :
    ∃ t, exec (.crcUpdate b) s = .next t ∧ t.acc = c :=
  ⟨_, exec_crcUpdate s b, h⟩

/-- R67: CRC_UPDATE byte by byte folds the sequence into `ACC` and answers OK to every byte. -/
theorem execAll_map_crcUpdate (data : List Byte) (s : State) :
    execAll (data.map .crcUpdate) s = .next { s with
      acc := crcFold s.acc data
      responses := s.responses ++ List.replicate data.length (respondOk .empty) } := by
  induction data generalizing s with
  | nil => rw [List.map_nil, execAll_nil, crcFold_nil, List.length_nil, List.replicate_zero, List.append_nil]
  | cons b data ih =>
    rw [List.map_cons, execAll_cons _ (exec_crcUpdate s b), ih, deliver_responses, List.append_assoc, List.length_cons,
      List.replicate_succ]
    rfl

/-- CRC_CLEAR and then CRC_UPDATE byte by byte leave the CRC of the sequence in `ACC` (R67). -/
theorem exists_execAll_crcClear_updates (data : List Byte) (s : State) :
    ∃ t, execAll (.crcClear :: data.map .crcUpdate) s = .next t ∧ t.acc = crcOf data :=
  ⟨_, (execAll_cons _ (exec_crcClear s)).trans (execAll_map_crcUpdate data _), rfl⟩

/-! ## The statements -/

/-- Settles O4: the index is a byte's number, and the step is the recurrence by `toNat_crcStep`. -/
theorem crcStepIsTheRecurrence : Obligations.CrcStepIsTheRecurrence :=
  fun c b => ⟨crcStep_index_lt_length_rom c b, toNat_crcStep c b⟩

/-- Settles O6: the new `ACC` is one step of the old, and the corner cases are values of that step. -/
theorem crcUpdateFoldsOneByte : Obligations.CrcUpdateFoldsOneByte := by
  refine ⟨fun b => rfl, fun s b => ?fold, fun s => ?zero, fun s => ?ownHighByte, fun s => ?ones, fun s => ?ruleExample⟩
  case fold => exact ⟨crcStep s.acc b, toNat_crcStep s.acc b, exec_crcUpdate s b⟩
  case zero => exact exists_exec_crcUpdate_acc crcStep_zero_zero
  case ownHighByte =>
    rw [← highByte_eq_shiftRight]
    exact ⟨_, exec_crcUpdate s _, toNat_crcStep_highByte s.acc⟩
  case ones =>
    have step : crcStep 0xFFFF 0xFF = 0xFF00 := crcStep_highByte 0xFFFF
    exact exists_exec_crcUpdate_acc step
  case ruleExample =>
    have step : crcStep 0x0000 0x08 = 0x8108 := by decide
    exact exists_exec_crcUpdate_acc step

/-- Settles O8: CRC16's value is the recurrence by `toNat_crcOf`, and leading zero bytes leave the initial value as it is. -/
theorem crc16FoldsTheRecurrence : Obligations.Crc16FoldsTheRecurrence := by
  refine ⟨fun data => rfl, fun s data => ?fold, fun s => ?empty, fun s k data => ?leadingZeros, fun s => ?checkValue⟩
  case fold => exact ⟨crcOf data, toNat_crcOf data, crcResult_eq (crcOf data) ▸ answers_crc16 s data⟩
  case empty => exact answers_crc16 s []
  case leadingZeros =>
    exact ⟨crcResult (crcOf data), answers_crc16_of_crcOf s (crcOf_replicate_zero_append k data), answers_crc16 s data⟩
  case checkValue =>
    have check : crcOf [0x31, 0x32, 0x33, 0x34, 0x35, 0x36, 0x37, 0x38, 0x39] = 0x31C3 := by decide
    exact answers_crc16_of_crcOf s check

/-- Settles O5: CRC_CLEAR writes `CRC_INIT`, which `ACC` holds after a first CRC_CLEAR and after reset. -/
theorem crcClearZeroesAcc : Obligations.CrcClearZeroesAcc :=
  ⟨rfl, exec_crcClear, fun s => ⟨_, _, exec_crcClear s, exec_crcClear _, rfl⟩, exec_crcClear State.reset⟩

/-- Settles O7: CRC_READ answers with `ACC`, which the example's CRC_CLEAR and five CRC_UPDATEs leave at 0xEF41. -/
theorem crcReadReturnsAcc : Obligations.CrcReadReturnsAcc := by
  refine ⟨rfl, fun s => ?value, fun s => ?twice, ?afterReset, fun s => ?ruleExample⟩
  case value => exact crcResult_eq s.acc ▸ answers_crcRead s
  case twice =>
    have first := answers_crcRead s
    have both := (execAll_cons [.crcRead] first).trans (execAll_cons [] (answers_crcRead _))
    exact ⟨crcResult s.acc, both.trans (by rw [execAll_nil, List.append_assoc]; rfl)⟩
  case afterReset => exact answers_crcRead State.reset
  case ruleExample =>
    obtain ⟨t, ht, hacc⟩ := exists_execAll_crcClear_updates [0x08, 0x01, 0x00, 0x00, 0xD5] s
    have check : crcOf [0x08, 0x01, 0x00, 0x00, 0xD5] = 0xEF41 := by decide
    exact ⟨t, ht, answers_crcRead_of_acc (hacc.trans check)⟩

end Sys2Proof.Machine
end

section
/-! PROOFS. The family of 41_encode.md: the payload length, the checks of ENCODE, and the three frame types. -/

namespace Sys2Proof.Machine

/-! ## The payload length -/

theorem bitLength_le_iff (v n : Nat) : bitLength v ≤ n ↔ v < 2 ^ n := by
  unfold bitLength
  split
  · next h => exact iff_of_true (Nat.zero_le n) (h ▸ Nat.two_pow_pos n)
  · next h => rw [Nat.succ_le_iff, Nat.log2_lt h]

/-- The bit length is the library's. -/
theorem bitLength_eq_size (v : Nat) : bitLength v = Nat.size v :=
  eq_of_forall_ge_iff fun n => by rw [bitLength_le_iff, Nat.size_le]

/-- Dividing by 8 and rounding up, on naturals. -/
theorem ceil_div_eight (n : Nat) : ⌈(n : ℚ) / 8⌉₊ = (n + 7) / 8 := by
  refine eq_of_forall_ge_iff fun k => ?_
  have scaled : (n : ℚ) ≤ k * 8 ↔ n ≤ k * 8 := by norm_cast
  rw [Nat.ceil_le, div_le_iff₀ (by norm_num), scaled]
  omega

/-- R72's third condition, by the value. -/
theorem payloadLen_gt_255_iff (v : Nat) : 255 < payloadLen v ↔ 2 ^ 2040 ≤ v := by
  rw [← not_le, payloadLen_le_255_iff, not_lt]

/-- The payload ENCODE writes has the value it was given. -/
theorem bigEndian_beBytes_payloadLen (v : Nat) : bigEndian (beBytes (payloadLen v) v) = v := by
  rw [bigEndian_eq_fromBe, fromBe_beBytes_payloadLen]

/-! ## ENCODE by its checks -/

theorem encodeResponse_of_addressRange {t : Byte} {a : Nat} (ht : DefinedType t) (ha : 0xFFFF < a) (v : Nat) :
    encodeResponse t a v = raise .encodingError .addressRange (.number a) := by
  obtain ⟨hn, -⟩ | ⟨-, -, hr⟩ | ⟨-, hn, -⟩ | ⟨⟨-, hn, -⟩, -⟩ := encodeResponse_cases t a v
  · exact absurd ht hn
  · exact hr
  · exact absurd ha (not_lt.2 hn)
  · exact absurd ha (not_lt.2 hn)

theorem encodeResponse_of_payloadTooLong {t : Byte} {a v : Nat} (ht : DefinedType t) (ha : a ≤ 0xFFFF)
    (hv : 255 < payloadLen v) :
    encodeResponse t a v = raise .encodingError .payloadTooLong (.number (payloadLen v)) := by
  obtain ⟨hn, -⟩ | ⟨-, hn, -⟩ | ⟨-, -, -, hr⟩ | ⟨⟨-, -, hn⟩, -⟩ := encodeResponse_cases t a v
  · exact absurd ht hn
  · exact absurd ha (not_le.2 hn)
  · exact hr
  · exact absurd ((payloadLen_gt_255_iff v).1 hv) (not_le.2 hn)

/-- Operands that are not legal are answered with an EncodingError, for one of R72's three reasons. -/
theorem exists_encodingError_of_not_legal {t : Byte} {a v : Nat} (h : ¬ LegalCommand t a v) :
    ∃ reason info, reason ∈ [Reason.badTypeCode, .addressRange, .payloadTooLong] ∧
      encodeResponse t a v = raise .encodingError reason info ∧ ∀ f, info ≠ .frame f := by
  obtain ⟨-, hr⟩ | ⟨-, -, hr⟩ | ⟨-, -, -, hr⟩ | ⟨hl, -⟩ := encodeResponse_cases t a v
  · exact ⟨_, _, by decide, hr, nofun⟩
  · exact ⟨_, _, by decide, hr, nofun⟩
  · exact ⟨_, _, by decide, hr, nofun⟩
  · exact absurd hl h

/-- After an EncodingError there is no frame to write (R75). -/
theorem lastFrame_deliver_encodingError (reason : Reason) (info : Data) (s : State) :
    lastFrame (deliver (raise .encodingError reason info) s) = none :=
  lastFrame_deliver ..

/-! ## Frames that DECODE recognises -/

/-- A canonical frame is a layout with a fitting LEN. -/
theorem exists_layout_of_canonicalFrame {f : List Byte} (h : canonicalFrame f = true) :
    ∃ t len a1 a0 payload c1 c0, f = layout header0 header1 t len a1 a0 payload c1 c0 ∧ payload.length = len.toNat := by
  simp only [canonicalFrame, Bool.and_eq_true, beq_iff_eq] at h
  obtain ⟨⟨⟨⟨⟨length, header⟩, -⟩, -⟩, -⟩, -⟩ := h
  obtain ⟨b0, b1, t, len, a1, a0, payload, c1, c0, rfl, fits⟩ := exists_layout length
  obtain ⟨rfl, rfl⟩ : b0 = header0 ∧ b1 = header1 := by simpa [layout] using header
  exact ⟨t, len, a1, a0, payload, c1, c0, rfl, fits⟩

/-- DECODE answers a canonical layout with its fields. -/
theorem decodeResponse_of_canonical_layout {t len a1 a0 c1 c0 : Byte} {payload : List Byte}
    (fits : payload.length = len.toNat)
    (h : canonicalFrame (layout header0 header1 t len a1 a0 payload c1 c0) = true) :
    decodeResponse (layout header0 header1 t len a1 a0 payload c1 c0) =
      respondOk (.command t (wordOfBytes a1 a0).toNat (fromBe payload)) := by
  obtain ⟨ht, hne, hmin, hcrc⟩ := (canonicalFrame_layout_iff _ _ _ _ _ _ _ fits).1 h
  obtain ⟨hn, -⟩ | ⟨-, hn, -⟩ | ⟨-, -, hn, -⟩ | ⟨-, -, long, zero, -⟩ | ⟨-, -, -, -, hr⟩ :=
    decodeResponse_layout_cases t len a1 a0 c1 c0 payload fits
  · exact absurd hcrc hn
  · exact absurd ht hn
  · exact absurd hn hne
  · exact absurd zero (hmin.resolve_left long.ne')
  · exact hr

/-- DECODE returns the TYPE byte of every canonical frame. -/
theorem exists_command_of_canonicalFrame {f : List Byte} {t : Byte} (h : canonicalFrame f = true)
    (ht : f[2]? = some t) : ∃ a v, decodeResponse f = respondOk (.command t a v) := by
  obtain ⟨t', len, a1, a0, payload, c1, c0, rfl, fits⟩ := exists_layout_of_canonicalFrame h
  obtain rfl : t' = t := Option.some.inj ht
  exact ⟨_, _, decodeResponse_of_canonical_layout fits h⟩

/-- LEN of a value that fits is the length of its payload. -/
theorem length_beBytes_eq_len {v : Nat} (hv : v < 2 ^ 2040) :
    (beBytes (payloadLen v) v).length = (BitVec.ofNat 8 (payloadLen v)).toNat := by
  rw [length_beBytes, toNat_payloadLen_byte hv]

/-- DECODE returns the operands ENCODE built the frame from. -/
theorem decodeResponse_commandFrame {t : Byte} {a v : Nat} (h : LegalCommand t a v) :
    decodeResponse (commandFrame t a v) = respondOk (.command t a v) := by
  have canonical := canonicalFrame_commandFrame h
  obtain ⟨-, ha, hv⟩ := h
  have address : (BitVec.ofNat 16 a).toNat = a := Nat.mod_eq_of_lt (Nat.lt_succ_of_le ha)
  rw [commandFrame_eq_layout] at canonical ⊢
  rw [decodeResponse_of_canonical_layout (length_beBytes_eq_len hv) canonical, wordOfBytes_high_low, address,
    fromBe_beBytes_payloadLen]

/-- ENCODE's frame by the fields of a frame instruction (R42). -/
theorem commandFrame_eq_frameBytes (t : Byte) (a v : Nat) :
    commandFrame t a v = frameBytes t (BitVec.ofNat 8 (payloadLen v)) (BitVec.ofNat 16 a) (beBytes (payloadLen v) v)
      (crcOf (commandBody t a v)) := by
  rw [commandFrame_eq_layout, frameBytes_eq_layout]

/-- A defined TYPE byte whose frames decode to a row of the table is what R76, R77 and R78 say of it. -/
theorem frameRow_of_decode {t : Byte} {row : Byte → Word → List Byte → Word → Instr} (ht : DefinedType t)
    (hrow : ∀ len addr payload crc, payload.length = len.toNat →
      decode (.frame (frameBytes t len addr payload crc)) = .ok (row len addr payload crc)) :
    FrameRow t row := by
  refine ⟨fun s a v ha hv => ⟨beBytes (payloadLen v) v, crcOf (commandBody t a v), ?_⟩, fun s f hf hft => ?canonical⟩
  case canonical =>
    obtain ⟨a, v, hr⟩ := exists_command_of_canonicalFrame hf hft
    exact ⟨a, v, answers_decode_of_eq s hr⟩
  have legal : LegalCommand t a v := ⟨ht, ha, hv⟩
  have body : [t, BitVec.ofNat 8 (payloadLen v)] ++ wordBytes (BitVec.ofNat 16 a) ++ beBytes (payloadLen v) v =
      commandBody t a v := by rw [commandBody, beBytes_two]
  have frame : [0x7E, 0x00, t, BitVec.ofNat 8 (payloadLen v)] ++ wordBytes (BitVec.ofNat 16 a) ++
      beBytes (payloadLen v) v ++ wordBytes (crcOf (commandBody t a v)) = commandFrame t a v :=
    (commandFrame_eq_frameBytes t a v).symm
  dsimp only
  rw [length_beBytes, body, frame]
  refine ⟨rfl, bigEndian_beBytes_payloadLen v, toNat_crcOf _, answers_encode_of_eq s (encodeResponse_of_legal legal),
    ?_, answers_decode_of_eq s (decodeResponse_commandFrame legal)⟩
  rw [commandFrame_eq_frameBytes]
  exact hrow _ _ _ _ (length_beBytes_eq_len hv)

/-- The frame decoder on a frame instruction's bytes, by the TYPE byte. -/
theorem decode_frameBytes (t len : Byte) (addr : Word) (payload : List Byte) (crc : Word)
    (fits : payload.length = len.toNat) :
    decode (.frame (frameBytes t len addr payload crc)) =
      if t = typeRead then .ok (.readFrame len addr payload crc)
      else if t = typeWrite then .ok (.writeFrame len addr payload crc)
      else if t = typeConfig then .ok (.configFrame len addr payload crc)
      else .error (.undefinedType t) := by
  rw [decode, frameBytes_eq_layout, decodeFrameRow_layout _ _ _ _ _ _ _ fits, wordOfBytes_high_low,
    wordOfBytes_high_low]

/-! ## The commands in the host's lines -/

/-- The one ENCODE in the lines of an acknowledged command is the command's. -/
theorem encode_mem_ackedCommand_iff {t : Byte} {a v : Nat} {c : Byte × Nat × Nat} :
    HostLine.issue (encode (.encode t a v)) ∈ ackedCommand c ↔ (t, a, v) = c := by
  simp [ackedCommand, sendCommand, encode, Prod.ext_iff]

/-- The ENCODEs in the lines of a sequence of commands are the commands', under both modes. -/
theorem encode_mem_commandSequence_iff {mode : ConfigureMode} {cs : List (Byte × Nat × Nat)} {t : Byte} {a v : Nat} :
    HostLine.issue (encode (.encode t a v)) ∈ commandSequence mode cs ↔ (t, a, v) ∈ cs := by
  induction cs with
  | nil => exact iff_of_false List.not_mem_nil List.not_mem_nil
  | cons c rest ih =>
    cases mode with
    | strict => simp [commandSequence, encode_mem_ackedCommand_iff, ih]
    | bestEffort => simp [commandSequence, encode_mem_ackedCommand_iff, ih]

theorem encode_mem_triggerScanLines_iff {t : Byte} {a v : Nat} :
    HostLine.issue (encode (.encode t a v)) ∈ triggerScanLines ↔ (t, a, v) = registerCommand .triggerScan := by
  simp [triggerScanLines, sendCommand, encode, Prod.ext_iff]

/-- A known register's command is a WRITE or a CONFIG (R79). -/
theorem registerCommand_type (r : KnownRegister) :
    (registerCommand r).1 = typeWrite ∨ (registerCommand r).1 = typeConfig := by
  cases r with
  | saveConfig => exact .inr rfl
  | _ => exact .inl rfl

theorem registerCommand_type_ne_read (r : KnownRegister) : (registerCommand r).1 ≠ 0x07 := by
  obtain h | h := registerCommand_type r <;> rw [h] <;> decide

/-- An ENCODE in the lines of a high-level operation is of a known register's command. -/
theorem exists_register_of_encode_mem {t : Byte} {a v : Nat}
    (h : HostLine.issue (encode (.encode t a v)) ∈ triggerScanLines ++ disableAllFormatsLines ++ saveConfigLines ++
      configureLines .strict ++ configureLines .bestEffort) : ∃ r, registerCommand r = (t, a, v) := by
  simp only [List.mem_append, encode_mem_triggerScanLines_iff, disableAllFormatsLines, saveConfigLines, configureLines,
    encode_mem_ackedCommand_iff, encode_mem_commandSequence_iff, configureCommands, List.mem_cons, List.not_mem_nil,
    or_false, or_assoc] at h
  obtain h | h | h | h | h | h | h | h | h | h | h := h <;> exact ⟨_, h.symm⟩

/-! ## The statements -/

/-- Settles O13: the bit length is the library's, and the bounds are `payloadLen_eq_iff`. -/
theorem payloadLengthIsMinimal : Obligations.PayloadLengthIsMinimal := by
  refine ⟨fun v => ?formula, rfl, fun v k hk hlow hhigh => (payloadLen_eq_iff v k hk).2 ⟨.inr hlow, hhigh⟩⟩
  case formula => rw [ceil_div_eight, ← bitLength_eq_size, payloadLen]

/-- Settles O14: one lemma for each check, the earlier ones passed. -/
theorem encodeRaisesFirstFailingCheck : Obligations.EncodeRaisesFirstFailingCheck :=
  ⟨fun s _ a v ht => answers_encode_of_eq s (encodeResponse_of_not_definedType ht a v),
    fun s _ _ v ht ha => answers_encode_of_eq s (encodeResponse_of_addressRange ht ha v),
    fun s _ _ _ ht ha hv => answers_encode_of_eq s (encodeResponse_of_payloadTooLong ht ha hv), payloadLen_gt_255_iff⟩

/-- Settles O16: the frame of legal operands is `commandFrame`, the others fail one of the three checks, and the listed
operands are computed. -/
theorem encodeBuildsOneFrame : Obligations.EncodeBuildsOneFrame := by
  refine ⟨fun t a v => rfl, fun s t a v h => ⟨beBytes (payloadLen v) v, crcOf (commandBody t a v), ?frame⟩,
    fun s t a v h => ?error, fun s => ⟨?_, ?_, ?_, ?_, ?_, ?_, ?_⟩⟩
  case frame =>
    have lower := one_le_payloadLen v
    have upper := (payloadLen_le_255_iff v).2 h.2.2
    have body : [t] ++ [BitVec.ofNat 8 (payloadLen v)] ++ [BitVec.ofNat 8 (a / 256), BitVec.ofNat 8 (a % 256)] ++
        beBytes (payloadLen v) v = commandBody t a v := (commandBody_eq_digits t a v).symm
    dsimp only
    rw [body, ← wordBytes_eq]
    exact ⟨length_beBytes .., bigEndian_beBytes_payloadLen v, toNat_crcOf _,
      answers_encode_of_eq s (encodeResponse_of_legal h), by omega, by omega⟩
  case error =>
    obtain ⟨reason, info, hreason, hr, -⟩ := exists_encodingError_of_not_legal h
    exact ⟨reason, info, hreason, answers_encode_of_eq s hr⟩
  all_goals exact answers_encode_of_eq s (by decide +kernel)

/-- Settles O20: the response to illegal operands is an EncodingError, which takes the frame to write away. -/
theorem encodeErrorLeavesNothingToWrite : Obligations.EncodeErrorLeavesNothingToWrite := by
  intro s t a v h
  obtain ⟨reason, info, -, hr, noFrame⟩ := exists_encodingError_of_not_legal h
  have answered := answers_encode_of_eq s hr
  exact ⟨_, _, answered, rfl, noFrame, answered, lastFrame_deliver_encodingError reason info s⟩

/-- Settles O22: the frame rules by `frameRow_of_decode`, and every command of a high-level operation is a known register's or
a format's, none of them a READ. -/
theorem readFrameIsBuiltAndRecognised : Obligations.ReadFrameIsBuiltAndRecognised := by
  refine ⟨frameRow_of_decode (by decide) (decode_frameBytes typeRead), registerCommand_type_ne_read,
    fun t a v h => ?register, fun fmt en t a v h => ?format, fun s => answers_encode_of_eq s (by decide)⟩
  case register =>
    obtain ⟨r, hr⟩ := exists_register_of_encode_mem h
    have type := registerCommand_type_ne_read r
    rwa [hr] at type
  case format =>
    cases encode_mem_ackedCommand_iff.1 h
    decide

/-- Settles O23: the frame rules by `frameRow_of_decode`; the commands are R79's and R80's. -/
theorem writeFrameIsBuiltAndRecognised : Obligations.WriteFrameIsBuiltAndRecognised :=
  ⟨frameRow_of_decode (by decide) (decode_frameBytes typeWrite), by decide, fun _ _ => rfl,
    fun s => answers_encode_of_eq s (by decide)⟩

/-- Settles O24: the frame rules by `frameRow_of_decode`, for every address; the save command is R79's. -/
theorem configFrameIsBuiltAndRecognised : Obligations.ConfigFrameIsBuiltAndRecognised :=
  ⟨frameRow_of_decode (by decide) (decode_frameBytes typeConfig), rfl, fun s => answers_encode_of_eq s (by decide)⟩

/-- Settles O19: the response is `encodeResponse` of the operands, in which no state stands. -/
theorem encodeIsAFunctionOfItsOperands : Obligations.EncodeIsAFunctionOfItsOperands :=
  fun t a v => ⟨encodeResponse t a v, fun s => answers_encode s t a v⟩

end Sys2Proof.Machine
end

section
/-! PROOFS. The family of 42_decode.md: DECODE's checks in their order, the frames it accepts, and the checks of the two
device responses. -/

namespace Sys2Proof.Machine

/-! ## DECODE by its structural checks -/

theorem decodeResponse_of_short {f : List Byte} (h : f.length < 8) :
    decodeResponse f = raise .protocolError .shortFrame (.number f.length) :=
  if_pos h

theorem decodeResponse_of_badHeader {b0 b1 : Byte} {rest : List Byte} (hl : 6 ≤ rest.length)
    (hb : b0 ≠ 0x7E ∨ b1 ≠ 0x00) :
    decodeResponse (b0 :: b1 :: rest) = raise .protocolError .badHeader (.header b0 b1) := by
  have long : ¬ (b0 :: b1 :: rest).length < frameOverhead := by simp [frameOverhead]; omega
  rw [decodeResponse, if_neg long]
  exact if_pos hb

theorem decodeResponse_of_lengthMismatch {t len : Byte} {rest : List Byte} (hl : 4 ≤ rest.length)
    (hn : rest.length ≠ 4 + len.toNat) :
    decodeResponse (0x7E :: 0x00 :: t :: len :: rest) =
      raise .protocolError .lengthMismatch (.lengths (8 + len.toNat) (4 + rest.length)) := by
  have count : (0x7E :: 0x00 :: t :: len :: rest : List Byte).length = 4 + rest.length := by simp; omega
  have header : ¬ ((0x7E : Byte) ≠ header0 ∨ (0x00 : Byte) ≠ header1) := by decide
  have long : ¬ 4 + rest.length < frameOverhead := by rw [frameOverhead]; omega
  have mismatch : 4 + rest.length ≠ 8 + len.toNat := by omega
  rw [decodeResponse, count, if_neg long]
  exact (if_neg header).trans (if_pos mismatch)

/-! ## DECODE by its checks on a frame whose structure holds -/

section contents
variable {t len a1 a0 c1 c0 : Byte} {payload : List Byte} (fits : payload.length = len.toNat)
include fits

theorem decodeResponse_of_badCrc (hc : wordOfBytes c1 c0 ≠ crcOf ([t, len, a1, a0] ++ payload)) :
    decodeResponse (layout header0 header1 t len a1 a0 payload c1 c0) =
      raise .protocolError .badCrc (.crcs (wordOfBytes c1 c0) (crcOf ([t, len, a1, a0] ++ payload))) :=
  (decodeResponse_layout _ _ _ _ _ _ _ fits).trans (if_pos hc)

variable (hc : wordOfBytes c1 c0 = crcOf ([t, len, a1, a0] ++ payload))
include hc

theorem decodeResponse_of_badType (ht : ¬ DefinedType t) :
    decodeResponse (layout header0 header1 t len a1 a0 payload c1 c0) =
      raise .protocolError .badTypeFrame (.typeCode t) := by
  rw [decodeResponse_layout _ _ _ _ _ _ _ fits, if_neg (not_not.2 hc), if_pos ((not_typeDefined_iff t).2 ht)]

variable (ht : DefinedType t)
include ht

theorem decodeResponse_of_zeroLength (hp : payload = []) :
    decodeResponse (layout header0 header1 t len a1 a0 payload c1 c0) = raise .protocolError .zeroLength .empty := by
  rw [decodeResponse_layout _ _ _ _ _ _ _ fits, if_neg (not_not.2 hc), if_neg (by rwa [not_typeDefined_iff, not_not]),
    if_pos hp]

theorem decodeResponse_of_nonCanonical (long : 1 < payload.length) (zero : payload.head? = some 0x00) :
    decodeResponse (layout header0 header1 t len a1 a0 payload c1 c0) = raise .protocolError .nonCanonical .empty := by
  have hp : payload ≠ [] := List.ne_nil_of_length_pos (by omega)
  rw [decodeResponse_layout _ _ _ _ _ _ _ fits, if_neg (not_not.2 hc), if_neg (by rwa [not_typeDefined_iff, not_not]),
    if_neg hp, if_pos ⟨long, zero⟩]

theorem decodeResponse_of_minimal (hp : payload ≠ []) (hm : payload.length = 1 ∨ payload.head? ≠ some 0x00) :
    decodeResponse (layout header0 header1 t len a1 a0 payload c1 c0) =
      respondOk (.command t (wordOfBytes a1 a0).toNat (fromBe payload)) :=
  decodeResponse_of_canonical_layout fits ((canonicalFrame_layout_iff _ _ _ _ _ _ _ fits).2 ⟨ht, hp, hm, hc⟩)

end contents

/-! ## The frames DECODE accepts -/

/-- DECODE accepts canonical frames only (R88). -/
theorem canonicalFrame_of_decodeResponse_command {f : List Byte} {t : Byte} {a v : Nat}
    (h : decodeResponse f = respondOk (.command t a v)) : canonicalFrame f = true := by
  obtain ⟨-, hr⟩ | ⟨-, -, hr⟩ | ⟨-, -, -, -, hr⟩ | ⟨t', len, a1, a0, payload, c1, c0, rfl, fits⟩ := decodeResponse_cases f
  · cases hr.symm.trans h
  · cases hr.symm.trans h
  · cases hr.symm.trans h
  obtain ⟨-, hr⟩ | ⟨-, -, hr⟩ | ⟨-, -, -, hr⟩ | ⟨-, -, -, -, hr⟩ | ⟨hc, ht, hp, hm, -⟩ :=
    decodeResponse_layout_cases t' len a1 a0 c1 c0 payload fits
  · cases hr.symm.trans h
  · cases hr.symm.trans h
  · cases hr.symm.trans h
  · cases hr.symm.trans h
  · exact (canonicalFrame_layout_iff _ _ _ _ _ _ _ fits).2 ⟨ht, hp, hm, hc⟩

theorem decodeResponse_command_iff_canonicalFrame (f : List Byte) :
    (∃ t a v, decodeResponse f = respondOk (.command t a v)) ↔ canonicalFrame f = true := by
  constructor
  · rintro ⟨t, a, v, h⟩
    exact canonicalFrame_of_decodeResponse_command h
  · intro h
    obtain ⟨t, len, a1, a0, payload, c1, c0, rfl, fits⟩ := exists_layout_of_canonicalFrame h
    exact ⟨_, _, _, decodeResponse_of_canonical_layout fits h⟩

/-- A canonical layout is ENCODE's frame for the fields it holds. -/
theorem canonical_layout_eq_commandFrame {t len a1 a0 c1 c0 : Byte} {payload : List Byte}
    (fits : payload.length = len.toNat) (h : canonicalFrame (layout header0 header1 t len a1 a0 payload c1 c0) = true) :
    LegalCommand t (wordOfBytes a1 a0).toNat (fromBe payload) ∧
      layout header0 header1 t len a1 a0 payload c1 c0 = commandFrame t (wordOfBytes a1 a0).toNat (fromBe payload) := by
  obtain ⟨ht, hp, hm, hc⟩ := (canonicalFrame_layout_iff _ _ _ _ _ _ _ fits).1 h
  have minimal : payloadLen (fromBe payload) = payload.length := (payloadLen_fromBe_eq_length_iff hp).2 hm
  have len_eq : BitVec.ofNat 8 payload.length = len := by rw [fits, BitVec.ofNat_toNat, BitVec.setWidth_eq]
  have body : commandBody t (wordOfBytes a1 a0).toNat (fromBe payload) = [t, len, a1, a0] ++ payload := by
    rw [commandBody_eq, minimal, beBytes_fromBe, len_eq, BitVec.ofNat_toNat, BitVec.setWidth_eq, highByte_wordOfBytes,
      lowByte_wordOfBytes]
  refine ⟨⟨ht, Nat.le_of_lt_succ (wordOfBytes a1 a0).isLt, fromBe_lt_of_length_le ?_⟩, ?_⟩
  · exact fits ▸ Nat.le_of_lt_succ len.isLt
  · rw [commandFrame, body, ← hc, layout_eq_append]

/-- The canonical frames are ENCODE's outputs (R88). -/
theorem canonicalFrame_iff_encodeResponse (f : List Byte) :
    canonicalFrame f = true ↔ ∃ t a v, encodeResponse t a v = respondOk (.frame f) := by
  constructor
  · intro h
    obtain ⟨t, len, a1, a0, payload, c1, c0, rfl, fits⟩ := exists_layout_of_canonicalFrame h
    obtain ⟨legal, hf⟩ := canonical_layout_eq_commandFrame fits h
    exact ⟨_, _, _, hf ▸ encodeResponse_of_legal legal⟩
  · rintro ⟨t, a, v, h⟩
    obtain ⟨legal, rfl⟩ := legal_of_encodeResponse_frame h
    exact canonicalFrame_commandFrame legal

/-! ## The response checks -/

theorem answers_ackCheck_of_eq {s : State} {rx : TransportResult} {r : Response} (h : ackResponse s.ackPolicy rx = r) :
    Answers (.ackCheck rx) s r := h ▸ answers_ackCheck s rx

theorem answers_scanExtract_of_eq {rx : TransportResult} {r : Response} (s : State) (h : scanResponse rx = r) :
    Answers (.scanExtract rx) s r := h ▸ answers_scanExtract s rx

section ack
variable (p : AckPolicy) {bs : List Byte}

theorem ackResponse_of_short (h : bs.length < 7) :
    ackResponse p (.bytes bs) = raise .protocolError .shortAck (.number bs.length) :=
  if_pos h

theorem ackResponse_of_long (h : 7 < bs.length) :
    ackResponse p (.bytes bs) = raise .protocolError .longAck (.number bs.length) :=
  (if_neg (not_lt.2 h.le)).trans (if_pos h)

/-- R93: seven bytes are the policy's to judge. -/
theorem ackResponse_of_seven (h : bs.length = 7) :
    ackResponse p (.bytes bs) =
      if !ackAccept p bs then raise .protocolError .ackRejected (.ack bs) else respondOk (.ack bs) :=
  (if_neg (not_lt.2 h.ge)).trans (if_neg (not_lt.2 h.le))

theorem ackResponse_of_rejected (h : bs.length = 7) (ha : ackAccept p bs = false) :
    ackResponse p (.bytes bs) = raise .protocolError .ackRejected (.ack bs) := by
  rw [ackResponse_of_seven p h, ha]; rfl

theorem ackResponse_of_accepted (h : bs.length = 7) (ha : ackAccept p bs = true) :
    ackResponse p (.bytes bs) = respondOk (.ack bs) := by
  rw [ackResponse_of_seven p h, ha]; rfl

end ack

/-- The policy reset leaves accepts every sequence (R94). -/
theorem ackAccept_reset (bs : List Byte) : ackAccept State.reset.ackPolicy bs = true := rfl

/-- The policy that refuses the 7-byte sequences a predicate does not accept; there are finitely many (assumption log 6). -/
noncomputable def policyOf (accept : List Byte → Bool) : AckPolicy :=
  ⟨(List.finite_length_eq Byte 7).toFinset.toList.filter (!accept ·)⟩

theorem ackAccept_policyOf (accept : List Byte → Bool) {bs : List Byte} (h : bs.length = 7) :
    ackAccept (policyOf accept) bs = accept bs := by
  have refused : bs ∈ (policyOf accept).refuses ↔ accept bs = false := by simp [policyOf, h]
  cases ha : accept bs with
  | false => simp [ackAccept, refused, ha]
  | true => simp [ackAccept, refused, ha]

theorem terminatorIndex_of_notMem {s : List Byte} (h : 0x0D ∉ s) : terminatorIndex s = none :=
  List.findIdx?_eq_none_iff.2 fun _ hb => beq_eq_false_iff_ne.2 (ne_of_mem_of_not_mem hb h)

/-- The least index of the terminator is the length of a payload without one that stands before it (R97). -/
theorem terminatorIndex_append_cons {payload : List Byte} (h : 0x0D ∉ payload) (remainder : List Byte) :
    terminatorIndex (payload ++ 0x0D :: remainder) = some payload.length := by
  have before : payload.findIdx? (· == scanTerminator) = none := terminatorIndex_of_notMem h
  have first : (0x0D :: remainder).findIdx? (· == scanTerminator) = some 0 := rfl
  rw [terminatorIndex, List.findIdx?_append, before, first, Option.none_or, Option.map_some, Nat.zero_add]

theorem scanResponse_of_notMem {bs : List Byte} (h : 0x0D ∉ bs) :
    scanResponse (.bytes bs) = raise .timeoutError .noTerminator (.number bs.length) := by
  simp only [scanResponse, terminatorIndex_of_notMem h]

theorem scanResponse_append_cons {payload : List Byte} (h : 0x0D ∉ payload) (remainder : List Byte) :
    scanResponse (.bytes (payload ++ 0x0D :: remainder)) = respondOk (.scan payload remainder) := by
  simp only [scanResponse, terminatorIndex_append_cons h, List.take_left, List.drop_length_add_append,
    List.drop_succ_cons, List.drop_zero]

/-! ## The statements -/

/-- Settles O27: one lemma for each check, the earlier ones passed; the CRCs as numbers are the words DECODE compares. -/
theorem decodeChecksInOrder : Obligations.DecodeChecksInOrder := by
  refine ⟨fun f => rfl, fun s f h => answers_decode_of_eq s (decodeResponse_of_short h),
    fun s b0 b1 rest hl hb => answers_decode_of_eq s (decodeResponse_of_badHeader hl hb),
    fun s t len rest hl hn => answers_decode_of_eq s (decodeResponse_of_lengthMismatch hl hn),
    fun s t len a1 a0 payload c1 c0 fits => ?contents⟩
  dsimp only
  have frame : [0x7E, 0x00] ++ ([t, len, a1, a0] ++ payload) ++ [c1, c0] =
      layout header0 header1 t len a1 a0 payload c1 c0 := by simp [layout, header0, header1]
  rw [frame, ← toNat_wordOfBytes, ← toNat_wordOfBytes, ← toNat_crcOf, bigEndian_eq_fromBe]
  simp only [ne_eq, BitVec.toNat_inj, BitVec.ofNat_toNat, BitVec.setWidth_eq]
  exact ⟨fun hc => answers_decode_of_eq s (decodeResponse_of_badCrc fits hc),
    fun hc ht => answers_decode_of_eq s (decodeResponse_of_badType fits hc ht),
    fun hc ht hp => answers_decode_of_eq s (decodeResponse_of_zeroLength fits hc ht hp),
    fun hc ht long zero => answers_decode_of_eq s (decodeResponse_of_nonCanonical fits hc ht long zero),
    fun hc ht hp hm => answers_decode_of_eq s (decodeResponse_of_minimal fits hc ht hp hm)⟩

/-- Settles O28: what DECODE accepts is canonical, and a canonical frame is ENCODE's for the fields it holds. -/
theorem decodeAcceptsExactlyCanonicalFrames : Obligations.DecodeAcceptsExactlyCanonicalFrames := by
  intro s f
  have decoded (t : Byte) (a v : Nat) : Answers (.decode f) s (respondOk (.command t a v)) ↔
      decodeResponse f = respondOk (.command t a v) :=
    ⟨(answers_decode s f).unique, answers_decode_of_eq s⟩
  have encoded (t : Byte) (a v : Nat) : Answers (.encode t a v) s (respondOk (.frame f)) ↔
      encodeResponse t a v = respondOk (.frame f) :=
    ⟨(answers_encode s t a v).unique, answers_encode_of_eq s⟩
  refine ⟨?decode, ?encode⟩
  case decode =>
    rw [← decodeResponse_command_iff_canonicalFrame]
    exact exists₃_congr decoded
  case encode =>
    rw [canonicalFrame_iff_encodeResponse]
    exact exists₃_congr fun t a v => (encoded t a v).symm

/-- Settles O31: one lemma for each transport result; the default policy is one that accepts. -/
theorem ackCheckValidatesTheRead : Obligations.AckCheckValidatesTheRead := by
  refine ⟨fun rx => rfl, fun s => answers_ackCheck s .fail, fun s => answers_ackCheck s .timeout,
    fun s bs h => answers_ackCheck_of_eq (ackResponse_of_short _ h),
    fun s bs h => answers_ackCheck_of_eq (ackResponse_of_long _ h),
    fun s bs h ha => answers_ackCheck_of_eq (ackResponse_of_rejected _ h ha),
    fun s bs h ha => answers_ackCheck_of_eq (ackResponse_of_accepted _ h ha), fun s bs h hp => ?byDefault⟩
  case byDefault =>
    have accepted : ackAccept s.ackPolicy bs = true := hp ▸ ackAccept_reset bs
    exact answers_ackCheck_of_eq (ackResponse_of_accepted _ h accepted)

/-- Settles O32: `policyOf` lists the finitely many 7-byte sequences a predicate refuses. -/
theorem ackAcceptIsAnyPredicate : Obligations.AckAcceptIsAnyPredicate :=
  ⟨fun accept => ⟨policyOf accept, fun _ h => ackAccept_policyOf accept h⟩, ackAccept_reset⟩

/-- Settles O33: the terminator's least index is none, or the payload's length. -/
theorem scanExtractCutsAtFirstTerminator : Obligations.ScanExtractCutsAtFirstTerminator :=
  ⟨fun _ => rfl, fun s => answers_scanExtract s .fail, fun s => answers_scanExtract s .timeout,
    fun s _ h => answers_scanExtract_of_eq s (scanResponse_of_notMem h),
    fun s _ remainder h => answers_scanExtract_of_eq s (scanResponse_append_cons h remainder)⟩

end Sys2Proof.Machine
end

section
/-! PROOFS. The family of 60_exceptions.md: which operation raises which error. The status table of R58 bounds who can raise an
error; the operation's own checks say when it does. -/

namespace Sys2Proof.Machine

/-! ## The response of an instruction that completed -/

section response
variable {i : Instr} {s u : State} {r : Response}

/-- The response an instruction completed with is the one it is answered with. -/
theorem response_eq_of_answers {r' : Response} (ha : Answers i s r') (h : exec i s = .next u)
    (hr : u.responses = s.responses ++ [r]) : r = r' := by
  cases ha.symm.trans h
  simpa using hr.symm

/-- R58 for the response of an instruction that completed. -/
theorem followsTable_of_exec (h : exec i s = .next u) (hr : u.responses = s.responses ++ [r]) : FollowsTable i r := by
  obtain ⟨r', v, he, table⟩ := exec_followsTable i s
  cases he.symm.trans h
  obtain rfl : r' = r := by simpa using hr
  exact table

theorem FollowsTable.status_eq (h : FollowsTable i r) : r.status = reasonStatus r.reason := by
  obtain ⟨-, -, -, legal⟩ := h
  exact eq_of_beq (Bool.and_eq_true_iff.1 legal).1

theorem FollowsTable.diagnostic_eq (h : FollowsTable i r) {reason : Reason} (hr : r.reason = reason)
    (hn : reason ≠ .none) : diagnostic reason i = some r.data := by
  obtain ⟨-, error, -⟩ := h
  subst hr
  exact error hn

end response

/-! ## Who raises a reason, by R58's column -/

section diagnostic
variable {i : Instr} {d : Data}

theorem exists_encode_of_diagnostic {reason : Reason} (hs : reasonStatus reason = .encodingError)
    (h : diagnostic reason i = some d) : ∃ t a v, i = .encode t a v := by
  cases i with
  | encode t a v => exact ⟨t, a, v, rfl⟩
  | _ => cases reason with
    | badTypeCode | addressRange | payloadTooLong | negativeOperand => cases h
    | _ => cases hs

theorem timeout_of_diagnostic_transportTimeout (h : diagnostic .transportTimeout i = some d) :
    i = .ackCheck .timeout ∨ i = .scanExtract .timeout := by
  cases i with
  | ackCheck rx | scanExtract rx => cases rx with
    | timeout => simp
    | _ => cases h
  | _ => cases h

theorem fail_of_diagnostic_transportFail (h : diagnostic .transportFail i = some d) :
    i = .ackCheck .fail ∨ i = .scanExtract .fail := by
  cases i with
  | ackCheck rx | scanExtract rx => cases rx with
    | fail => simp
    | _ => cases h
  | _ => cases h

theorem exists_bytes_of_diagnostic_noTerminator (h : diagnostic .noTerminator i = some d) :
    ∃ bs, i = .scanExtract (.bytes bs) ∧ d = .number bs.length := by
  cases i with
  | scanExtract rx => cases rx with
    | bytes bs => exact ⟨bs, rfl, (Option.some.inj h).symm⟩
    | _ => cases h
  | _ => cases h

end diagnostic

/-! ## When ENCODE and SCAN_EXTRACT raise theirs -/

theorem exists_encode_eq_iff {t : Byte} {a v : Nat} {P : Byte → Nat → Nat → Prop} :
    (∃ t' a' v', Instr.encode t a v = .encode t' a' v' ∧ P t' a' v') ↔ P t a v := by
  constructor
  · rintro ⟨t', a', v', he, hP⟩
    cases he
    exact hP
  · exact fun hP => ⟨t, a, v, rfl, hP⟩

/-- R72's checks as R101 reads them off the response: EncodingError for operands that are not legal, and each reason when its
check is the first that fails. -/
theorem encodeResponse_errors_iff (t : Byte) (a v : Nat) :
    let r := encodeResponse t a v
    (r.status = .encodingError ↔ ¬ LegalCommand t a v) ∧
    (r.reason = .badTypeCode ↔ ¬ DefinedType t ∧ r.data = .typeCode t) ∧
    (r.reason = .addressRange ↔ DefinedType t ∧ 0xFFFF < a ∧ r.data = .number a) ∧
    (r.reason = .payloadTooLong ↔ DefinedType t ∧ a ≤ 0xFFFF ∧ 255 < payloadLen v ∧ r.data = .number (payloadLen v)) ∧
    r.reason ≠ .negativeOperand := by
  obtain ⟨ht, hr⟩ | ⟨ht, ha, hr⟩ | ⟨ht, ha, hv, hr⟩ | ⟨hl, hr⟩ := encodeResponse_cases t a v <;> dsimp only <;> rw [hr]
  · exact ⟨iff_of_true rfl fun ⟨h, _⟩ => ht h, iff_of_true rfl ⟨ht, rfl⟩, iff_of_false nofun fun ⟨h, _⟩ => ht h,
      iff_of_false nofun fun ⟨h, _⟩ => ht h, nofun⟩
  · exact ⟨iff_of_true rfl fun ⟨_, h, _⟩ => not_le.2 ha h, iff_of_false nofun fun ⟨h, _⟩ => h ht,
      iff_of_true rfl ⟨ht, ha, rfl⟩, iff_of_false nofun fun ⟨_, h, _⟩ => not_le.2 ha h, nofun⟩
  · exact ⟨iff_of_true rfl fun ⟨_, _, h⟩ => not_le.2 hv ((payloadLen_le_255_iff v).2 h),
      iff_of_false nofun fun ⟨h, _⟩ => h ht, iff_of_false nofun fun ⟨_, h, _⟩ => not_lt.2 ha h,
      iff_of_true rfl ⟨ht, ha, hv, rfl⟩, nofun⟩
  · exact ⟨iff_of_false nofun fun h => h hl, iff_of_false nofun nofun, iff_of_false nofun nofun,
      iff_of_false nofun nofun, nofun⟩

/-- SCAN_EXTRACT misses the terminator only where there is none. -/
theorem notMem_of_scanResponse_noTerminator {bs : List Byte} (h : (scanResponse (.bytes bs)).reason = .noTerminator) :
    0x0D ∉ bs := by
  intro hm
  obtain ⟨payload, remainder, rfl, before⟩ := List.eq_append_cons_of_mem hm
  rw [scanResponse_append_cons before] at h
  cases h

/-! ## TimeoutError and TransportError by their reasons -/

theorem reasonStatus_eq_timeoutError_iff (reason : Reason) :
    reasonStatus reason = .timeoutError ↔ reason = .transportTimeout ∨ reason = .noTerminator := by
  cases reason <;> decide

theorem reasonStatus_eq_transportError_iff (reason : Reason) :
    reasonStatus reason = .transportError ↔ reason = .transportFail := by
  cases reason <;> decide

/-! ## The statements -/

/-- Settles O21: for ENCODE by its checks; for every other instruction the status table excludes all of ENCODE's reasons. -/
theorem encodingErrorsAreExactlyEncodes : Obligations.EncodingErrorsAreExactlyEncodes := by
  intro i s u r h hr
  by_cases hi : ∃ t a v, i = .encode t a v
  · obtain ⟨t, a, v, rfl⟩ := hi
    obtain rfl := response_eq_of_answers (answers_encode s t a v) h hr
    simp only [exists_encode_eq_iff]
    exact encodeResponse_errors_iff t a v
  · have table := followsTable_of_exec h hr
    have absent {reason : Reason} (hs : reasonStatus reason = .encodingError) : r.reason ≠ reason := fun e =>
      hi (exists_encode_of_diagnostic hs (table.diagnostic_eq e (by rintro rfl; cases hs)))
    have status : r.status ≠ .encodingError := fun e => absent (table.status_eq.symm.trans e) rfl
    have notEncode {P : Byte → Nat → Nat → Prop} : ¬ ∃ t a v, i = .encode t a v ∧ P t a v :=
      fun ⟨t, a, v, he, _⟩ => hi ⟨t, a, v, he⟩
    exact ⟨iff_of_false status notEncode, iff_of_false (absent rfl) notEncode, iff_of_false (absent rfl) notEncode,
      iff_of_false (absent rfl) notEncode, absent rfl⟩

/-- Settles O35: a reason by the status table's column of who raises it and, conversely, by what the operation is answered with
on that transport result; the two statuses by their reasons. -/
theorem transportErrorsAreTheTransports : Obligations.TransportErrorsAreTheTransports := by
  intro i s u r h hr
  have table := followsTable_of_exec h hr
  have failStatus : r.status = .transportError ↔ r.reason = .transportFail := by
    rw [table.status_eq, reasonStatus_eq_transportError_iff]
  refine ⟨⟨fun e => ?timeout, ?onTimeout⟩, ⟨fun e => ?noTerminator, ?onBytes⟩, ?timeoutStatus,
    ⟨fun e => ?fail, ?onFail⟩, failStatus⟩
  case timeout => exact timeout_of_diagnostic_transportTimeout (table.diagnostic_eq e nofun)
  case onTimeout =>
    rintro (rfl | rfl)
    · exact response_eq_of_answers (answers_ackCheck s .timeout) h hr ▸ rfl
    · exact response_eq_of_answers (answers_scanExtract s .timeout) h hr ▸ rfl
  case noTerminator =>
    obtain ⟨bs, rfl, hd⟩ := exists_bytes_of_diagnostic_noTerminator (table.diagnostic_eq e nofun)
    rw [response_eq_of_answers (answers_scanExtract s (.bytes bs)) h hr] at e
    exact ⟨bs, rfl, notMem_of_scanResponse_noTerminator e, hd⟩
  case onBytes =>
    rintro ⟨bs, rfl, hm, -⟩
    exact response_eq_of_answers (answers_scanExtract_of_eq s (scanResponse_of_notMem hm)) h hr ▸ rfl
  case timeoutStatus => rw [table.status_eq, reasonStatus_eq_timeoutError_iff]
  case fail => exact fail_of_diagnostic_transportFail (table.diagnostic_eq (failStatus.1 e) nofun)
  case onFail =>
    rintro (rfl | rfl)
    · exact response_eq_of_answers (answers_ackCheck s .fail) h hr ▸ rfl
    · exact response_eq_of_answers (answers_scanExtract s .fail) h hr ▸ rfl

/-- Settles O12: the answer of each of the four. -/
theorem crcOperationsNeverFail : Obligations.CrcOperationsNeverFail := by
  intro s b data i hi
  simp only [List.mem_cons, List.not_mem_nil, or_false] at hi
  obtain rfl | rfl | rfl | rfl := hi
  · exact ⟨_, _, exec_crcClear s, rfl⟩
  · exact ⟨_, _, exec_crcUpdate s b, rfl⟩
  · exact ⟨_, _, answers_crcRead s, rfl⟩
  · exact ⟨_, _, answers_crc16 s data, rfl⟩

end Sys2Proof.Machine
end

section
/-! PROOFS. The family of 70_reset_and_hazards.md: an incremental CRC from reset is one that a CRC_CLEAR began. -/

namespace Sys2Proof.Machine

/-- CRC_UPDATE byte by byte from a state whose `ACC` is `CRC_INIT` leaves the CRC of the sequence in `ACC` (R65, R67). -/
theorem exists_execAll_updates_of_acc_eq_crcInit {s : State} (h : s.acc = crcInit) (data : List Byte) :
    ∃ t, execAll (data.map .crcUpdate) s = .next t ∧ t.acc = crcOf data :=
  ⟨_, execAll_map_crcUpdate data s, congrArg (crcFold · data) h⟩

/-- Settles O1: from reset and after CRC_CLEAR alike, `ACC` starts at `CRC_INIT` and ends at the CRC of the sequence. -/
theorem resetStartsAFreshCrc : Obligations.ResetStartsAFreshCrc := by
  refine ⟨reset_acc, reset_acc.symm, fun data => ?_⟩
  obtain ⟨t, fromReset, ht⟩ := exists_execAll_updates_of_acc_eq_crcInit reset_acc data
  obtain ⟨u, fromClear, hu⟩ := exists_execAll_crcClear_updates data State.reset
  exact ⟨t, u, fromReset, fromClear, ht.trans hu.symm⟩

end Sys2Proof.Machine
end

section
/-! PROOFS. The round trips: ENCODE and DECODE, which are each other's inverses on legal operands and canonical frames, and
the encoder and decoder of the instructions; with them the frames that are handed to the block as instructions. -/

namespace Sys2Proof.Machine

/-! ## ENCODE of what DECODE returns -/

/-- What DECODE accepts is ENCODE's frame for what it returns (R90). -/
theorem eq_commandFrame_of_decodeResponse_command {f : List Byte} {t : Byte} {a v : Nat}
    (h : decodeResponse f = respondOk (.command t a v)) : LegalCommand t a v ∧ f = commandFrame t a v := by
  have canonical := canonicalFrame_of_decodeResponse_command h
  obtain ⟨t', len, a1, a0, payload, c1, c0, rfl, fits⟩ := exists_layout_of_canonicalFrame canonical
  cases (decodeResponse_of_canonical_layout fits canonical).symm.trans h
  exact canonical_layout_eq_commandFrame fits canonical

theorem eq_commandFrame_of_answers_command {s : State} {f : List Byte} {t : Byte} {a v : Nat}
    (h : Answers (.decode f) s ⟨.ok, .none, .command t a v⟩) : LegalCommand t a v ∧ f = commandFrame t a v :=
  eq_commandFrame_of_decodeResponse_command ((answers_decode s f).unique h)

/-! ## The decoder of the instructions on what the encoder gives -/

/-- A frame instruction is well formed when its payload is as long as LEN says. -/
theorem length_eq_of_payloadFits {len : Byte} {payload : List Byte} (h : payloadFits len payload = true) :
    payload.length = len.toNat :=
  eq_of_beq h

/-- Decoding undoes encoding (R42, R54). -/
theorem decode_encode {i : Instr} (h : WellFormed i = true) : decode (encode i) = .ok i := by
  cases i with
  | reserved low => decide +revert
  | readFrame len addr p crc => exact decode_frameBytes typeRead len addr p crc (length_eq_of_payloadFits h)
  | writeFrame len addr p crc => exact decode_frameBytes typeWrite len addr p crc (length_eq_of_payloadFits h)
  | configFrame len addr p crc => exact decode_frameBytes typeConfig len addr p crc (length_eq_of_payloadFits h)
  | _ => rfl

/-! ## The encoder on what the decoder gives -/

/-- A request whose op code is not reserved is the encoding of what it decodes to. -/
theorem encode_of_decodeRequest {op : BitVec 4} {operands : List Operand} {i : Instr} (hop : op.getLsbD 3 = false)
    (h : decodeRequest ⟨op, operands⟩ = .ok i) : WellFormed i = true ∧ encode i = .request ⟨op, operands⟩ := by
  simp only [decodeRequest, hop, Bool.false_eq_true, if_false] at h
  split at h
  case h_9 => cases h
  all_goals
    rename_i code
    cases h
    exact ⟨rfl, by simp [encode, ← BitVec.toNat_inj, code]⟩

/-- A reserved op code is the code 8 to 15 that its three low bits name (R56). -/
theorem op_eq_of_reserved {op : BitVec 4} (h : op.getLsbD 3 = true) : op = 1#1 ++ op.setWidth 3 := by
  decide +revert

/-- The fields of a frame instruction read from a layout lay it out again. -/
theorem frameBytes_wordOfBytes (t len a1 a0 c1 c0 : Byte) (payload : List Byte) :
    frameBytes t len (wordOfBytes a1 a0) payload (wordOfBytes c1 c0) =
      layout header0 header1 t len a1 a0 payload c1 c0 := by
  rw [frameBytes_eq_layout, highByte_wordOfBytes, lowByte_wordOfBytes, highByte_wordOfBytes, lowByte_wordOfBytes]

/-- A frame that decodes to an instruction is that instruction's encoding. -/
theorem encode_of_decodeFrameRow {f : List Byte} {i : Instr} (h : decodeFrameRow f = .ok i) :
    WellFormed i = true ∧ encode i = .frame f := by
  obtain ⟨t, len, a1, a0, payload, c1, c0, rfl, fits⟩ := layout_of_decodeFrameRow h
  rw [decodeFrameRow_layout _ _ _ _ _ _ _ fits] at h
  rw [← frameBytes_wordOfBytes]
  have wellFormed : payloadFits len payload = true := beq_iff_eq.2 fits
  split at h
  · next read => cases h; exact ⟨wellFormed, by rw [read, encode]⟩
  split at h
  · next write => cases h; exact ⟨wellFormed, by rw [write, encode]⟩
  split at h
  · next config => cases h; exact ⟨wellFormed, by rw [config, encode]⟩
  cases h

/-! ## Frames handed to the block -/

/-- An instruction that is handed over as a frame does what DECODE does on the frame's bytes (assumption log 5). -/
theorem exec_eq_decode_of_encode_frame {i : Instr} {f : List Byte} (h : encode i = .frame f) (s : State) :
    exec i s = exec (.decode f) s := by
  cases i with
  | readFrame _ _ _ _ | writeFrame _ _ _ _ | configFrame _ _ _ _ => cases h; rfl
  | _ => cases h

/-- DECODE's answer on a frame instruction's bytes, when they pass its checks. -/
theorem decodeResponse_frameBytes {t len : Byte} {addr crc : Word} {payload : List Byte} (ht : DefinedType t)
    (fits : payload.length = len.toNat) (hp : payload ≠ []) (hm : payload.length = 1 ∨ payload.head? ≠ some 0x00)
    (hc : crc = crcOf ([t, len, highByte addr, lowByte addr] ++ payload)) :
    decodeResponse (frameBytes t len addr payload crc) = respondOk (.command t addr.toNat (bigEndian payload)) := by
  rw [← wordOfBytes_high_low crc] at hc
  rw [frameBytes_eq_layout, decodeResponse_of_minimal fits hc ht hp hm, wordOfBytes_high_low, bigEndian_eq_fromBe]

/-- A row of the table whose frames are given to DECODE: what DECODE accepts is answered with its fields. -/
theorem answers_frame_of_minimal {t : Byte} {row : Byte → Word → List Byte → Word → Instr} (ht : DefinedType t)
    (hrow : ∀ len addr payload crc s,
      exec (row len addr payload crc) s = exec (.decode (frameBytes t len addr payload crc)) s)
    {len : Byte} {addr crc : Word} {payload : List Byte} (s : State) (fits : payload.length = len.toNat)
    (hp : 1 ≤ payload.length) (hm : payload.length ≠ 1 → payload.head? ≠ some 0x00)
    (hc : crc.toNat =
      recurrenceCrc ([t, len, BitVec.ofNat 8 (addr.toNat / 256), BitVec.ofNat 8 (addr.toNat % 256)] ++ payload)) :
    Answers (row len addr payload crc) s ⟨.ok, .none, .command t addr.toNat (bigEndian payload)⟩ := by
  rw [← highByte_eq, ← lowByte_eq] at hc
  have decoded := decodeResponse_frameBytes ht fits (List.ne_nil_of_length_pos hp) (or_iff_not_imp_left.2 hm)
    (eq_crcOf_of_toNat_eq hc)
  exact (hrow len addr payload crc s).trans (answers_decode_of_eq s decoded)

/-! ## The statements -/

/-- Settles O29: DECODE of ENCODE's frame, for legal operands. -/
theorem decodeInvertsEncode : Obligations.DecodeInvertsEncode :=
  fun s t a v h => ⟨commandFrame t a v, answers_encode_of_eq s (encodeResponse_of_legal h),
    answers_decode_of_eq s (decodeResponse_commandFrame h)⟩

/-- Settles O30: what DECODE accepts is ENCODE's frame for what it returns, so two sequences answered alike are one frame. -/
theorem encodeInvertsDecode : Obligations.EncodeInvertsDecode := by
  refine ⟨fun s f t a v h => ?roundTrip, fun s f g t a v hf hg => ?injective⟩
  case roundTrip =>
    obtain ⟨legal, rfl⟩ := eq_commandFrame_of_answers_command h
    exact ⟨legal, answers_encode_of_eq s (encodeResponse_of_legal legal)⟩
  case injective =>
    obtain ⟨-, hf⟩ := eq_commandFrame_of_answers_command hf
    obtain ⟨-, hg⟩ := eq_commandFrame_of_answers_command hg
    exact hf.trans hg.symm

/-- Settles O46, by the instruction: `decode_encode`. -/
theorem decodeOfEncodeIsIdentity : Obligations.DecodeOfEncodeIsIdentity :=
  fun _ => decode_encode

/-- Settles O47: requests by bit 3 of the op code, frames by their layout. -/
theorem encodeOfDecodeIsIdentity : Obligations.EncodeOfDecodeIsIdentity := by
  intro x i h
  cases x with
  | frame f =>
    obtain ⟨wellFormed, encoded⟩ := encode_of_decodeFrameRow h
    exact ⟨wellFormed, .inl encoded⟩
  | request r =>
    obtain ⟨op, operands⟩ := r
    cases hop : op.getLsbD 3 with
    | false =>
      obtain ⟨wellFormed, encoded⟩ := encode_of_decodeRequest hop h
      exact ⟨wellFormed, .inl encoded⟩
    | true =>
      cases (if_pos hop).symm.trans h
      exact ⟨rfl, .inr ⟨_, operands, rfl, by rw [← op_eq_of_reserved hop]⟩⟩

/-- Settles O48: each word is computed. -/
theorem sampleWordsDecode : Obligations.SampleWordsDecode := by
  unfold Obligations.SampleWordsDecode
  decide

/-- Settles O25: each of the three rows makes DECODE's checks on its bytes, which a minimal payload and a right CRC pass. -/
theorem framesHandedOverAreDecoded : Obligations.FramesHandedOverAreDecoded := by
  intro p hp
  simp only [List.mem_cons, List.not_mem_nil, or_false] at hp
  obtain rfl | rfl | rfl := hp
  all_goals exact ⟨fun s _ _ _ _ => answers_frame_of_minimal (by decide) (fun _ _ _ _ _ => rfl) s, fun _ _ _ _ _ => rfl⟩

/-- Settles O37: the response follows the table as every instruction's does, and is DECODE's of the bytes. -/
theorem frameResponsesFollowTheStatusTable : Obligations.FrameResponsesFollowTheStatusTable := by
  intro f i s t hd h
  obtain ⟨-, encoded⟩ := encode_of_decodeFrameRow hd
  have decoded : exec i s = .next (deliver (decodeResponse f) s) := exec_eq_decode_of_encode_frame encoded s
  cases decoded.symm.trans h
  exact ⟨decodeResponse f, rfl, followsTable_of_exec h rfl, answers_decode s f⟩

/-- Settles O26: the thirteen frames are computed. -/
theorem knownRegisterFrames : Obligations.KnownRegisterFrames :=
  ⟨fun s p hp => answers_encode_of_eq s (by revert p; decide), fun s p hp => answers_encode_of_eq s (by revert p; decide)⟩

end Sys2Proof.Machine
end

section
/-! PROOFS. The laws of the Checksum Engine: the ROM is linear in its index, feeding byte by byte gives the CRC of the whole,
the table stands for division one bit at a time, and a message with its own CRC behind it leaves zero. -/

namespace Sys2Proof.Machine

/-- R20 for the construction: shifting and dividing are linear. -/
theorem tableConstruction_xor (a b : Byte) :
    tableConstruction (a ^^^ b) = tableConstruction a ^^^ tableConstruction b := by
  rw [tableConstruction, BitVec.setWidth_xor, BitVec.shiftLeft_xor_distrib, shiftRounds_xor]
  rfl

/-- A byte's entry of the ROM is the one `TABLE` gives. -/
theorem rom_getElem? (i : Byte) : rom[i.toNat]? = some (table i) := by
  have inRom : i.toNat < rom.length := length_rom ▸ i.isLt
  rw [table, List.getD_eq_getElem _ _ inRom, List.getElem?_eq_getElem inRom]

/-- R70: the engine's fold is division one bit at a time. -/
theorem bitwiseCrc_eq_crcOf (data : List Byte) : bitwiseCrc data = crcOf data := by
  have rounds : crcStep = fun c b => shiftRounds 8 (c ^^^ ((b.setWidth 16 : Word) <<< 8)) :=
    funext₂ crcStep_eq_shiftRounds
  rw [crcOf, crcFold, rounds]
  rfl

/-- R51: the CRC of a message followed by its own CRC. -/
theorem crcOf_append_wordBytes_crcOf (data : List Byte) : crcOf (data ++ wordBytes (crcOf data)) = 0x0000 := by
  rw [crcOf, crcFold_append]
  exact crcFold_wordBytes _

/-- What follows the header of ENCODE's frame is a message followed by its own CRC (R43). -/
theorem drop_two_commandFrame (t : Byte) (a v : Nat) :
    (commandFrame t a v).drop 2 = commandBody t a v ++ wordBytes (crcOf (commandBody t a v)) :=
  rfl

/-- Settles O2: the listing has its length, and each entry is the construction's. -/
theorem romHoldsTheConstructedTable : Obligations.RomHoldsTheConstructedTable :=
  ⟨length_rom, fun i => table_eq_construction i ▸ rom_getElem? i, rfl, rfl, rfl, rfl⟩

/-- Settles O3: by the construction, which is linear. -/
theorem romIsLinearOverXor : Obligations.RomIsLinearOverXor := by
  intro a b
  simp only [table_eq_construction, tableConstruction_xor]

/-- Settles O9: the updates fold the sequence into what CRC_CLEAR left, and folding goes piece by piece. -/
theorem incrementalCrcAgreesWithCrc16 : Obligations.IncrementalCrcAgreesWithCrc16 := by
  refine ⟨fun s data => ⟨crcOf data, crcResult (crcOf data), ?program, answers_crc16 s data, toNat_crcOf data⟩,
    fun s x y => ⟨_, execAll_map_crcUpdate x s, ?pieces, toNat_crcFold s.acc x⟩⟩
  case program =>
    have updates := execAll_append [.crcRead] (execAll_map_crcUpdate data (deliver (respondOk .empty) (setAcc crcInit s)))
    rw [List.cons_append, execAll_cons _ (exec_crcClear s), updates, execAll_cons _ (answers_crcRead _)]
    simp [crcOf, deliver, setAcc, respondOk, List.replicate_succ]
  case pieces => rw [List.map_append, execAll_append _ (execAll_map_crcUpdate x s)]

/-- Settles O10: each step is eight rounds of division, so the fold is. -/
theorem tableCrcIsBitwiseDivision : Obligations.TableCrcIsBitwiseDivision := by
  refine ⟨fun s data => ?sequence, fun s b => ?update⟩
  case sequence => exact answers_crc16_of_crcOf s (bitwiseCrc_eq_crcOf data).symm
  case update => rw [← crcStep_eq_shiftRounds]; exact exec_crcUpdate s b

/-- Settles O11: CRC16's two bytes are the CRC's own, and ENCODE's frame ends in the CRC of its body. -/
theorem crcOfMessageWithItsCrcIsZero : Obligations.CrcOfMessageWithItsCrcIsZero := by
  refine ⟨fun s data c b0 b1 h => ?message, fun s t a v f h => ?frame⟩
  case message =>
    cases (answers_crc16 s data).unique h
    exact answers_crc16_of_crcOf s (crcOf_append_wordBytes_crcOf data)
  case frame =>
    obtain ⟨-, rfl⟩ := legal_of_encodeResponse_frame ((answers_encode s t a v).unique h)
    rw [drop_two_commandFrame]
    exact answers_crc16_of_crcOf s (crcOf_append_wordBytes_crcOf _)

end Sys2Proof.Machine
end

section
/-! PROOFS. The host's lines, one a step: what each line can do, the invariant `State.legal` that every step keeps, and where a
host program stops. -/

namespace Sys2Proof.Machine

/-! ## What the host hands over -/

section issues
variable {i : Instr} {e : Reject}

theorem runIssue_of_ok {x : Issue} (h : decode x = .ok i) (s : State) : runIssue x s = exec i s := by
  simp only [runIssue, h]

theorem runIssue_of_frame_error {f : List Byte} (h : decode (.frame f) = .error e) (s : State) :
    runIssue (.frame f) s = exec (.decode f) s := by
  simp only [runIssue, h]

theorem runIssue_of_request_error {r : Request} (h : decode (.request r) = .error e) (s : State) :
    runIssue (.request r) s = .refused (.malformedRequest r.op) := by
  simp only [runIssue, h]

/-- What is handed over runs as an instruction, or it is a request without its operation's operands. -/
theorem runIssue_cases (x : Issue) (s : State) :
    (∃ i, runIssue x s = exec i s) ∨
    (∃ r e, x = .request r ∧ decode x = .error e ∧ runIssue x s = .refused (.malformedRequest r.op)) := by
  cases hd : decode x with
  | ok i => exact .inl ⟨i, runIssue_of_ok hd s⟩
  | error e =>
    cases x with
    | frame f => exact .inl ⟨.decode f, runIssue_of_frame_error hd s⟩
    | request r => exact .inr ⟨r, e, rfl, rfl, runIssue_of_request_error hd s⟩

end issues

/-- A request is rejected for its operands only, whatever its op code. -/
theorem eq_malformedRequest_of_decodeRequest {r : Request} {e : Reject} (h : decodeRequest r = .error e) :
    e = .malformedRequest r.op := by
  obtain ⟨op, operands⟩ := r
  cases hop : op.getLsbD 3 with
  | true => cases (if_pos hop).symm.trans h
  | false =>
    simp only [decodeRequest, hop, Bool.false_eq_true, if_false] at h
    split at h
    case h_9 => cases h; rfl
    all_goals cases h

theorem exec_completes (i : Instr) (s : State) : ∃ t, exec i s = .next t := by
  obtain ⟨r, v, h, -⟩ := exec_cases i s
  exact ⟨_, h⟩

/-! ## A check of the last transport result -/

theorem runHostLine_ackCheckRx {s : State} {rx : TransportResult} (h : s.host.rx = some rx) :
    runHostLine .ackCheckRx s = exec (.ackCheck rx) s := by
  simp only [runHostLine, h]

theorem runHostLine_scanExtractRx {s : State} {rx : TransportResult} (h : s.host.rx = some rx) :
    runHostLine .scanExtractRx s = exec (.scanExtract rx) s := by
  simp only [runHostLine, h]

theorem runHostLine_ackCheckRx_of_none {s : State} (h : s.host.rx = none) :
    runHostLine .ackCheckRx s = .fault .noTransportResult := by
  simp only [runHostLine, h]

theorem runHostLine_scanExtractRx_of_none {s : State} (h : s.host.rx = none) :
    runHostLine .scanExtractRx s = .fault .noTransportResult := by
  simp only [runHostLine, h]

/-! ## A write and a read, by what is awaited -/

theorem runWrite_of_lastFrame_none {s : State} (h : lastFrame s = none) : runWrite s = .fault .nothingToWrite := by
  simp only [runWrite, h]

section write
variable {s : State} {f : List Byte} (hf : lastFrame s = some f)
include hf

theorem runWrite_of_awaiting (h : s.host.awaiting ≠ none) : runWrite s = .refused .overlappedCommand := by
  simp only [runWrite, hf, Option.isSome_iff_ne_none.2 h, if_true]

theorem runWrite_of_not_awaiting (h : s.host.awaiting = none) : runWrite s = .next (writeWire f s) := by
  simp only [runWrite, hf, h, Option.isSome_none, Bool.false_eq_true, if_false]

end write

section read
variable {s : State} {shape : ResponseShape}

theorem runRead_of_not_awaiting (h : s.host.awaiting = none) : runRead shape s = .refused .readWithoutCommand := by
  simp only [runRead, h]

theorem runRead_of_awaiting (h : s.host.awaiting = some shape) : runRead shape s = .next (readTransport s) := by
  simp only [runRead, h, if_true]

theorem runRead_of_awaiting_other {expected : ResponseShape} (h : s.host.awaiting = some expected)
    (hne : shape ≠ expected) : runRead shape s = .refused .wrongResponseShape := by
  simp only [runRead, h, if_neg hne]

end read

/-! ## What a line that completes has done -/

/-- A line that completes ran an instruction, wrote the frame the last ENCODE gave, read a transport result, or left the
responses and the host's side as they were. -/
theorem runHostLine_next_cases {line : HostLine} {s t : State} (h : runHostLine line s = .next t) :
    (∃ i, exec i s = .next t) ∨ (∃ f, lastFrame s = some f ∧ t = writeWire f s) ∨ t = readTransport s ∨
    (t.responses = s.responses ∧ t.host = s.host) := by
  have read {shape : ResponseShape} (h : runRead shape s = .next t) : t = readTransport s := by
    obtain ⟨-, hr⟩ | ⟨-, hr⟩ | ⟨-, -, -, hr⟩ := runRead_cases shape s
    · cases hr.symm.trans h; rfl
    · cases hr.symm.trans h
    · cases hr.symm.trans h
  cases line with
  | issue x =>
    obtain ⟨i, hi⟩ | ⟨r, e, -, -, hr⟩ := runIssue_cases x s
    · exact .inl ⟨i, hi.symm.trans h⟩
    · cases hr.symm.trans h
  | write =>
    obtain ⟨-, hw⟩ | ⟨-, hw⟩ | ⟨f, hf, -, hw⟩ := runWrite_cases s
    · cases hw.symm.trans h
    · cases hw.symm.trans h
    · cases hw.symm.trans h
      exact .inr (.inl ⟨f, hf, rfl⟩)
  | readExact7 => exact .inr (.inr (.inl (read h)))
  | readUntilTerminator => exact .inr (.inr (.inl (read h)))
  | ackCheckRx =>
    cases hrx : s.host.rx with
    | some rx => exact .inl ⟨_, (runHostLine_ackCheckRx hrx).symm.trans h⟩
    | none => cases (runHostLine_ackCheckRx_of_none hrx).symm.trans h
  | scanExtractRx =>
    cases hrx : s.host.rx with
    | some rx => exact .inl ⟨_, (runHostLine_scanExtractRx hrx).symm.trans h⟩
    | none => cases (runHostLine_scanExtractRx_of_none hrx).symm.trans h
  | stopOnError lines =>
    cases h
    exact .inr (.inr (.inr (by split <;> exact ⟨rfl, rfl⟩)))
  | reset =>
    cases h
    exact .inr (.inr (.inr ⟨rfl, rfl⟩))

/-! ## The invariant -/

theorem legal_iff (s : State) : s.legal = true ↔
    (∀ r ∈ s.responses, legalResponse r = true) ∧ (∀ f ∈ s.host.wire, canonicalFrame f = true) ∧
      (s.host.awaiting = none ∨ s.host.awaiting = s.host.wire.getLast?.map responseShape) := by
  simp only [State.legal, Bool.and_eq_true, Bool.or_eq_true, List.all_eq_true, beq_iff_eq, and_assoc]

/-- The invariant is about the responses and the host's side alone. -/
theorem legal_congr {s t : State} (hr : t.responses = s.responses) (hh : t.host = s.host) : t.legal = s.legal := by
  rw [State.legal, State.legal, hr, hh]

theorem legal_deliver {s : State} {r : Response} (h : s.legal = true) (hr : legalResponse r = true) :
    (deliver r s).legal = true := by
  rw [legal_iff] at h ⊢
  obtain ⟨responses, wire, awaiting⟩ := h
  refine ⟨?_, wire, awaiting⟩
  rw [deliver_responses, List.forall_mem_append]
  exact ⟨responses, List.forall_mem_singleton.2 hr⟩

theorem legal_writeWire {s : State} {f : List Byte} (h : s.legal = true) (hf : canonicalFrame f = true) :
    (writeWire f s).legal = true := by
  rw [legal_iff] at h ⊢
  obtain ⟨responses, wire, -⟩ := h
  refine ⟨responses, ?_, .inr ?_⟩
  · rw [writeWire_wire, List.forall_mem_append]
    exact ⟨wire, List.forall_mem_singleton.2 hf⟩
  · rw [writeWire_awaiting, writeWire_wire, List.getLast?_concat, Option.map_some]

theorem legal_readTransport {s : State} (h : s.legal = true) : (readTransport s).legal = true := by
  rw [legal_iff] at h ⊢
  obtain ⟨responses, wire, -⟩ := h
  exact ⟨responses, wire, .inl rfl⟩

/-- Every instruction's response follows the table, so it is legal. -/
theorem exec_keeps_legal {i : Instr} {s t : State} (h : s.legal = true) (he : exec i s = .next t) : t.legal = true := by
  obtain ⟨r, v, hr, -, -, -, legal⟩ := exec_followsTable i s
  cases hr.symm.trans he
  exact legal_deliver ((legal_congr rfl rfl).trans h) legal

/-- In a legal state the frame to write is canonical: a response gave it. -/
theorem canonicalFrame_of_lastFrame {s : State} {f : List Byte} (h : s.legal = true) (hf : lastFrame s = some f) :
    canonicalFrame f = true := by
  obtain ⟨reason, mem⟩ := exists_response_of_lastFrame hf
  have legal := ((legal_iff s).1 h).1 _ mem
  cases reason with
  | none => exact legal
  | _ => cases legal

theorem runHostLine_keeps_legal {line : HostLine} {s t : State} (h : s.legal = true)
    (hs : runHostLine line s = .next t) : t.legal = true := by
  obtain ⟨i, he⟩ | ⟨f, hf, rfl⟩ | rfl | ⟨hr, hh⟩ := runHostLine_next_cases hs
  · exact exec_keeps_legal h he
  · exact legal_writeWire h (canonicalFrame_of_lastFrame h hf)
  · exact legal_readTransport h
  · exact (legal_congr hr hh).trans h

/-! ## The statements -/

/-- Settles O44: by what the line that ran has done. -/
theorem everyStepKeepsTheStateLegal : Obligations.EveryStepKeepsTheStateLegal := by
  intro s t h hs
  cases hp : s.program with
  | nil =>
    cases (step_of_nil hp).symm.trans hs
    exact h
  | cons line rest =>
    have taken : ({ s with program := rest } : State).legal = true := (legal_congr rfl rfl).trans h
    exact runHostLine_keeps_legal taken ((step_of_cons hp).symm.trans hs)

/-- Settles O45: reset's interface is empty. -/
theorem resetStateIsLegal : Obligations.ResetStateIsLegal :=
  (legal_iff State.reset).2 ⟨nofun, nofun, .inl rfl⟩

/-- Settles O49: the step takes the line off, and `runIssue` says what is run. -/
theorem stepRunsTheDecodedInstruction : Obligations.StepRunsTheDecodedInstruction := by
  refine ⟨fun s x rest i hp hd => (step_of_cons hp).trans (runIssue_of_ok hd _), fun s nbits w i hw => ?tableWord,
    fun s f rest e hp hd => (step_of_cons hp).trans (runIssue_of_frame_error hd _),
    fun s r rest e hp hd => (step_of_cons hp).trans (runIssue_of_request_error hd _), fun s => step_of_nil⟩
  case tableWord =>
    have decoded : decode (issueOfWord nbits w) = .ok i := by
      unfold decodeTableWord at hw
      split at hw
      · next hd => cases hw; exact hd
      · cases hw
    have next : (s.withFetchWord nbits w).program = .issue (issueOfWord nbits w) :: s.program := rfl
    exact (step_of_cons next).trans (runIssue_of_ok decoded s)

/-- Settles O50: by the next line; the block itself completes always. -/
theorem onlyHostLinesStopTheMachine : Obligations.OnlyHostLinesStopTheMachine := by
  intro s stops
  cases hp : s.program with
  | nil => exact absurd (step_of_nil hp) (stops s)
  | cons line rest =>
    have run := step_of_cons hp
    rw [run] at stops ⊢
    cases line with
    | issue x =>
      obtain ⟨i, hi⟩ | ⟨r, e, rfl, hd, hr⟩ := runIssue_cases x { s with program := rest }
      · obtain ⟨t, ht⟩ := exec_completes i { s with program := rest }
        exact absurd (hi.trans ht) (stops t)
      · cases eq_malformedRequest_of_decodeRequest hd
        exact .inl ⟨r, rest, rfl, hr, hd⟩
    | write =>
      obtain ⟨hf, hw⟩ | ⟨ha, hw⟩ | ⟨f, -, -, hw⟩ := runWrite_cases { s with program := rest }
      · exact .inr (.inl ⟨rest, rfl, .inl ⟨hw, hf⟩⟩)
      · exact .inr (.inl ⟨rest, rfl, .inr ⟨hw, ha⟩⟩)
      · exact absurd hw (stops _)
    | readExact7 =>
      obtain ⟨ha, hr⟩ | ⟨shape, hne, ha, hr⟩ :=
        (runRead_cases .ack { s with program := rest }).resolve_left fun ⟨_, hr⟩ => stops _ hr
      · exact .inr (.inr (.inl ⟨rest, .inl rfl, hr, ha⟩))
      · cases shape with
        | ack => exact absurd rfl hne
        | scan => exact .inr (.inr (.inr (.inl ⟨rest, .inl ⟨rfl, ha⟩, hr⟩)))
    | readUntilTerminator =>
      obtain ⟨ha, hr⟩ | ⟨shape, hne, ha, hr⟩ :=
        (runRead_cases .scan { s with program := rest }).resolve_left fun ⟨_, hr⟩ => stops _ hr
      · exact .inr (.inr (.inl ⟨rest, .inr rfl, hr, ha⟩))
      · cases shape with
        | ack => exact .inr (.inr (.inr (.inl ⟨rest, .inr ⟨rfl, ha⟩, hr⟩)))
        | scan => exact absurd rfl hne
    | ackCheckRx =>
      cases hrx : s.host.rx with
      | some rx => exact absurd (runHostLine_ackCheckRx (s := { s with program := rest }) hrx) (stops _)
      | none => exact .inr (.inr (.inr (.inr ⟨rest, .inl rfl, runHostLine_ackCheckRx_of_none hrx, rfl⟩)))
    | scanExtractRx =>
      cases hrx : s.host.rx with
      | some rx => exact absurd (runHostLine_scanExtractRx (s := { s with program := rest }) hrx) (stops _)
      | none => exact .inr (.inr (.inr (.inr ⟨rest, .inr rfl, runHostLine_scanExtractRx_of_none hrx, rfl⟩)))
    | stopOnError lines => exact absurd rfl (stops _)
    | reset => exact absurd rfl (stops _)

/-- Settles O54: the step takes the line off, and what is awaited says how the write or the read ends. -/
theorem hostDutiesAreRefusedWhenBroken : Obligations.HostDutiesAreRefusedWhenBroken := by
  intro s rest f
  dsimp only
  refine ⟨fun hp hf => (step_of_cons hp).trans (runWrite_of_lastFrame_none hf),
    fun hp hf => ⟨fun ha => (step_of_cons hp).trans (runWrite_of_awaiting hf ha), fun ha => ?write⟩, ?noCommand,
    fun hp ha => (step_of_cons hp).trans (runRead_of_awaiting_other ha nofun),
    fun hp ha => (step_of_cons hp).trans (runRead_of_awaiting_other ha nofun), ?read⟩
  case write =>
    refine ⟨_, (step_of_cons hp).trans (runWrite_of_not_awaiting hf ha), writeWire_wire .., ?_⟩
    rw [writeWire_awaiting, responseShape, triggerScanFrame_eq]
  case noCommand =>
    rintro (hp | hp) ha
    · exact (step_of_cons hp).trans (runRead_of_not_awaiting ha)
    · exact (step_of_cons hp).trans (runRead_of_not_awaiting ha)
  case read =>
    rintro (⟨hp, ha⟩ | ⟨hp, ha⟩)
    · exact ⟨_, (step_of_cons hp).trans (runRead_of_awaiting ha), rfl, rfl, rfl⟩
    · exact ⟨_, (step_of_cons hp).trans (runRead_of_awaiting ha), rfl, rfl, rfl⟩

end Sys2Proof.Machine
end

section
/-! PROOFS. Operations in every state: what one writes and what its response depends on, and operations one after another as
lines of a host program. -/

namespace Sys2Proof.Machine

/-! ## One operation -/

/-- Every operation but CRC_CLEAR and CRC_UPDATE is answered and writes nothing else (R34). -/
theorem exists_answer_of_not_writer {i : Instr} (hclear : i ≠ .crcClear) (hupdate : ∀ b, i ≠ .crcUpdate b) (s : State) :
    ∃ r, Answers i s r := by
  obtain ⟨r, v, he, ⟨hi, -⟩ | ⟨b, hi, -⟩ | rfl⟩ := exec_cases i s
  · exact absurd hi hclear
  · exact absurd hi (hupdate b)
  · exact ⟨r, he⟩

/-- CRC_CLEAR and CRC_UPDATE succeed, so an operation that fails is one that writes nothing but its response (R98). -/
theorem answers_of_error {i : Instr} {s t : State} {r : Response} (h : exec i s = .next t)
    (hr : t.responses = s.responses ++ [r]) (herror : r.reason ≠ .none) : Answers i s r := by
  have notSuccess {t' : State} (he : exec i s = .next t') (hok : t'.responses = s.responses ++ [respondOk .empty]) : False := by
    cases he.symm.trans h
    have ok : respondOk .empty = r := by simpa using hok.symm.trans hr
    exact herror (ok ▸ rfl)
  have notClear : i ≠ .crcClear := fun hi => notSuccess (hi ▸ exec_crcClear s) rfl
  have notUpdate (b : Byte) : i ≠ .crcUpdate b := fun hi => notSuccess (hi ▸ exec_crcUpdate s b) rfl
  obtain ⟨r', answered⟩ := exists_answer_of_not_writer notClear notUpdate s
  exact response_eq_of_answers answered h hr ▸ answered

/-- The response of every operation but CRC_READ depends on the policy alone, and no other operation reads `ACC` for it. -/
theorem exists_same_response {i : Instr} {s s' : State} (hi : i ≠ .crcRead) (hp : s.ackPolicy = s'.ackPolicy) :
    ∃ r t t', exec i s = .next t ∧ exec i s' = .next t' ∧ t.responses = s.responses ++ [r] ∧
      t'.responses = s'.responses ++ [r] := by
  cases i with
  | crcRead => exact absurd rfl hi
  | ackCheck rx => exact ⟨_, _, _, answers_ackCheck s rx, answers_ackCheck s' rx, rfl, by rw [hp]⟩
  | _ => exact ⟨_, _, _, rfl, rfl, rfl, rfl⟩

/-- No operation touches the lines still to come. -/
theorem program_of_exec {i : Instr} {s t : State} (h : exec i s = .next t) : t.program = s.program := by
  obtain ⟨r, v, he, -⟩ := exec_cases i s
  cases he.symm.trans h
  rfl

/-- What an operation does has nothing to do with the lines still to come. -/
theorem exec_withProgram {i : Instr} {s t : State} (h : exec i s = .next t) (p : List HostLine) :
    exec i { s with program := p } = .next { t with program := p } := by
  cases i with
  | _ => cases h; rfl

/-! ## Operations one after another -/

/-- Operations one after another complete; they deliver one response each and write at most `ACC`. -/
theorem execAll_completes (is : List Instr) (s : State) : ∃ rs v, rs.length = is.length ∧
    execAll is s = .next { s with acc := v, responses := s.responses ++ rs } := by
  induction is generalizing s with
  | nil => exact ⟨[], s.acc, rfl, by rw [execAll_nil, List.append_nil]⟩
  | cons i is ih =>
    obtain ⟨r, v, he, -⟩ := exec_cases i s
    obtain ⟨rs, w, hlen, hall⟩ := ih (deliver r (setAcc v s))
    refine ⟨r :: rs, w, congrArg (· + 1) hlen, (execAll_cons is he).trans (hall.trans ?_)⟩
    rw [deliver_responses, List.append_assoc]
    rfl

/-- The step of a line that holds a well-formed instruction runs it. -/
theorem step_issue_encode {s : State} {i : Instr} {rest : List HostLine} (hw : WellFormed i = true)
    (hp : s.program = .issue (encode i) :: rest) : step s = exec i { s with program := rest } :=
  (step_of_cons hp).trans (runIssue_of_ok (decode_encode hw) _)

/-- R38: the lines of well-formed instructions run as the instructions one after another. -/
theorem core_run_issues {is : List Instr} {s : State} {rest : List HostLine} (hw : ∀ i ∈ is, WellFormed i = true)
    (hp : s.program = is.map (fun i => .issue (encode i)) ++ rest) :
    Sys2Proof.core.run is.length s = execAll is { s with program := rest } := by
  induction is generalizing s with
  | nil =>
    obtain rfl : s.program = rest := hp
    rfl
  | cons i is ih =>
    obtain ⟨hi, his⟩ := List.forall_mem_cons.1 hw
    obtain ⟨t, he⟩ := exec_completes i { s with program := is.map (fun i => .issue (encode i)) ++ rest }
    rw [List.length_cons, core_run_succ _ ((step_issue_encode hi hp).trans he), ih his (program_of_exec he),
      execAll_cons is (exec_withProgram he rest)]

/-- Lines of CRC_UPDATE fold their bytes into `ACC` (R67). -/
theorem core_run_updates {data : List Byte} {s : State} {rest : List HostLine}
    (hp : s.program = data.map (fun b => .issue (encode (.crcUpdate b))) ++ rest) :
    Sys2Proof.core.run data.length s = .next { s with
      acc := crcFold s.acc data
      responses := s.responses ++ List.replicate data.length (respondOk .empty)
      program := rest } := by
  have wellFormed : ∀ i ∈ data.map Instr.crcUpdate, WellFormed i = true := by simp [WellFormed]
  have lines : s.program = (data.map Instr.crcUpdate).map (fun i => .issue (encode i)) ++ rest := by
    rw [hp, List.map_map]
    rfl
  have run := core_run_issues wellFormed lines
  rwa [List.length_map, execAll_map_crcUpdate] at run

/-! ## The statements -/

/-- Settles O38: the diagnostic is the status table's, and an operation that fails writes nothing but its response. -/
theorem failingOperationWritesNoState : Obligations.FailingOperationWritesNoState := by
  intro i s t r h hr herror
  have table := followsTable_of_exec h hr
  cases (answers_of_error h hr herror).symm.trans h
  refine ⟨?status, table.diagnostic_eq rfl herror, rfl⟩
  case status =>
    have listed : ∀ reason, reason ≠ .none → statusCode (reasonStatus reason) ≠ 0x0 := by
      intro reason
      cases reason <;> decide
    rw [table.status_eq]
    exact listed r.reason herror

/-- Settles O39: by what an operation can write. -/
theorem onlyClearAndUpdateWriteAcc : Obligations.OnlyClearAndUpdateWriteAcc := by
  intro i s
  obtain ⟨r, v, he, writer⟩ := exec_cases i s
  refine ⟨_, r, he, rfl, fun changed => ?_⟩
  obtain ⟨hi, -⟩ | ⟨b, hi, -⟩ | same := writer
  · exact .inl hi
  · exact .inr ⟨b, hi⟩
  · exact absurd same changed

/-- Settles O41: the other responses by the instruction; CRC_READ's holds `ACC` itself. -/
theorem onlyCrcReadRevealsAcc : Obligations.OnlyCrcReadRevealsAcc := by
  refine ⟨fun i s s' => exists_same_response, fun s s' r h h' => ?_⟩
  have same : crcResult s.acc = crcResult s'.acc :=
    ((answers_crcRead s).unique h).trans ((answers_crcRead s').unique h').symm
  injection same with _ _ data
  injection data

/-- Settles O42: by the instruction, the second issue finds the policy and the `ACC` that the first left; a CRC_UPDATE with
0x01 after reset and another differ. -/
theorem operationsAreIdempotentExceptUpdate : Obligations.OperationsAreIdempotentExceptUpdate := by
  refine ⟨fun i s hi => ?twice, State.reset, 0x01, _, _, exec_crcUpdate _ _, exec_crcUpdate _ _, by decide⟩
  cases i with
  | crcUpdate b => exact absurd rfl (hi b)
  | _ => exact ⟨_, _, _, rfl, rfl, rfl, rfl⟩

/-- Settles O43: the lines run as the operations one after another, which complete. -/
theorem operationsTakeEffectInIssueOrder : Obligations.OperationsTakeEffectInIssueOrder := by
  intro is s rest hw hp
  obtain ⟨rs, v, hlen, hall⟩ := execAll_completes is { s with program := rest }
  exact ⟨_, (core_run_issues hw hp).trans hall, hall, rfl, rfl, rs, hlen, rfl⟩

/-- Settles O51: the updates after the reset fold their bytes into the value it sets. -/
theorem resetBetweenOperationsRestartsTheCrc : Obligations.ResetBetweenOperationsRestartsTheCrc := by
  intro s before after rest hp
  rw [List.append_assoc] at hp
  obtain ⟨u, first, next, host⟩ : ∃ u, Sys2Proof.core.run before.length s = .next u ∧
      u.program = .reset :: (after.map (fun b => .issue (encode (.crcUpdate b))) ++ rest) ∧ u.host = s.host :=
    ⟨_, core_run_updates hp, rfl, rfl⟩
  have restart : step u = .next (setAcc State.reset.acc
      { u with program := after.map (fun b => .issue (encode (.crcUpdate b))) ++ rest }) := step_of_cons next
  have run := core_run_add (1 + after.length) first
  rw [← Nat.add_assoc, Nat.add_comm 1, core_run_succ _ restart, core_run_updates rfl] at run
  exact ⟨_, run, rfl, host, toNat_crcOf after⟩

end Sys2Proof.Machine
end

section
/-! PROOFS. The host's pseudo-operations as runs of their lines (41_encode.md R81 to R85): one round trip for each command, and
CONFIGURE, which under STRICT_CONFIGURE leaves out the rest at the first acknowledgement that fails. -/

namespace Sys2Proof.Machine

/-! ## Round trips -/

/-- No round trip leaves a state with no command in flight as it is. -/
theorem roundTrips_nil (check : TransportResult → Response) {s : State} (ha : s.host.awaiting = none) :
    roundTrips check [] s s.program s.host.incoming = s := by
  obtain ⟨acc, policy, responses, program, incoming, rx, wire, awaiting⟩ := s
  obtain rfl : awaiting = none := ha
  simp [roundTrips]

/-- Round trips after one more. -/
theorem roundTrips_cons (check : TransportResult → Response) (trip : List Byte × TransportResult)
    (trips : List (List Byte × TransportResult)) (s : State) (rest rest' : List HostLine)
    (incoming incoming' : List TransportResult) :
    roundTrips check trips (roundTrips check [trip] s rest' incoming') rest incoming =
      roundTrips check (trip :: trips) s rest incoming := by
  cases h : trips.getLast? with
  | none => simp [roundTrips, List.getLast?_cons, h]
  | some last => simp [roundTrips, List.getLast?_cons, h]

/-- After a round trip the last response is the check of its read. -/
theorem lastFailed_roundTrips (check : TransportResult → Response) (f : List Byte) (rx : TransportResult) (s : State)
    (rest : List HostLine) (incoming : List TransportResult) :
    lastFailed (roundTrips check [(f, rx)] s rest incoming) = ((check rx).status != .ok) := by
  have last : (roundTrips check [(f, rx)] s rest incoming).responses.getLast? = some (check rx) := by simp [roundTrips]
  simp only [lastFailed, last]

/-! ## The four lines of a command -/

/-- After ENCODE gave this frame and it was written: it is the last response, on the wire, and its response is awaited. -/
def sentFrame (f : List Byte) (s : State) (rest : List HostLine) : State :=
  writeWire f (deliver (respondOk (.frame f)) { s with program := rest })

/-- Reading the response to a written frame and checking it completes its round trip. -/
theorem deliver_check_readTransport_sentFrame {s : State} {rx : TransportResult} {incoming : List TransportResult}
    (hi : s.host.incoming = rx :: incoming) (answer : TransportResult → Response) (f : List Byte) (rest : List HostLine) :
    deliver (answer rx) (readTransport (sentFrame f s rest)) = roundTrips answer [(f, rx)] s rest incoming := by
  simp [deliver, readTransport, sentFrame, writeWire, roundTrips, respondOk, hi]

section command
variable {s : State} {c : Byte × Nat × Nat} {f : List Byte} {rest : List HostLine}
  (hf : encodeResponse c.1 c.2.1 c.2.2 = respondOk (.frame f)) (ha : s.host.awaiting = none)
include hf ha

/-- ENCODE of a command and the write put its frame on the wire. -/
theorem core_run_sendCommand (hp : s.program = sendCommand c ++ rest) :
    Sys2Proof.core.run 2 s = .next (sentFrame f s rest) := by
  have encoded : step s = .next (deliver (respondOk (.frame f)) { s with program := .write :: rest }) :=
    (step_issue_encode rfl hp).trans (answers_encode_of_eq _ hf)
  have frame : lastFrame (deliver (respondOk (.frame f)) { s with program := rest }) = some f := lastFrame_deliver ..
  have written : step (deliver (respondOk (.frame f)) { s with program := .write :: rest }) = .next (sentFrame f s rest) :=
    (step_of_cons (line := .write) rfl).trans (runWrite_of_not_awaiting frame ha)
  rw [core_run_succ 1 encoded, core_run_succ 0 written, core_run_zero]

variable {rx : TransportResult} {incoming : List TransportResult} (hi : s.host.incoming = rx :: incoming)
include hi

/-- A command, the read of its response in the response's shape, and the check of the read are one round trip. -/
theorem core_run_roundTrip {read check : HostLine} {answer : TransportResult → Response}
    (hread : ∀ u, runHostLine read u = runRead (responseShape f) u)
    (hcheck : ∀ u, u.ackPolicy = s.ackPolicy → u.host.rx = some rx →
      runHostLine check u = .next (deliver (answer rx) u))
    (hp : s.program = sendCommand c ++ read :: check :: rest) :
    Sys2Proof.core.run 4 s = .next (roundTrips answer [(f, rx)] s rest incoming) := by
  have sent := core_run_sendCommand hf ha hp
  have received : step (sentFrame f s (read :: check :: rest)) = .next (readTransport (sentFrame f s (check :: rest))) :=
    (step_of_cons rfl).trans ((hread _).trans (runRead_of_awaiting rfl))
  have result : (readTransport (sentFrame f s rest)).host.rx = some rx := by simp [sentFrame, hi]
  have checked : step (readTransport (sentFrame f s (check :: rest))) =
      .next (deliver (answer rx) (readTransport (sentFrame f s rest))) :=
    (step_of_cons rfl).trans (hcheck _ rfl result)
  rw [core_run_add 2 sent, core_run_succ 1 received, core_run_succ 0 checked, core_run_zero,
    deliver_check_readTransport_sentFrame hi]

/-- TRIGGER_SCAN's lines, for a frame that is answered with a scan result. -/
theorem core_run_scannedCommand (hs : responseShape f = .scan)
    (hp : s.program = sendCommand c ++ [.readUntilTerminator, .scanExtractRx] ++ rest) :
    Sys2Proof.core.run 4 s = .next (roundTrips scanResponse [(f, rx)] s rest incoming) := by
  rw [List.append_assoc] at hp
  exact core_run_roundTrip hf ha hi (fun _ => hs ▸ rfl)
    (fun u _ hrx => (runHostLine_scanExtractRx hrx).trans (answers_scanExtract u rx)) hp

/-- The lines of a command that is answered with an acknowledgement. -/
theorem core_run_ackedCommand (hs : responseShape f = .ack) (hp : s.program = ackedCommand c ++ rest) :
    Sys2Proof.core.run 4 s = .next (roundTrips (ackResponse s.ackPolicy) [(f, rx)] s rest incoming) := by
  rw [ackedCommand, List.append_assoc] at hp
  exact core_run_roundTrip hf ha hi (fun _ => hs ▸ rfl)
    (fun u hpolicy hrx => (runHostLine_ackCheckRx hrx).trans (hpolicy ▸ answers_ackCheck u rx)) hp

end command

/-! ## Commands one after another -/

/-- The command has this frame, and the device acknowledges it. -/
abbrev Acknowledged (c : Byte × Nat × Nat) (f : List Byte) : Prop :=
  encodeResponse c.1 c.2.1 c.2.2 = respondOk (.frame f) ∧ responseShape f = .ack

/-- The lines of each command of a sequence. -/
def linesPerCommand : ConfigureMode → Nat
  | .strict => 5
  | .bestEffort => 4

/-- The host leaves out the next lines when the last response is an error. -/
theorem step_stopOnError {s : State} {lines : Nat} {after rest : List HostLine} (hl : after.length = lines)
    (hp : s.program = .stopOnError lines :: (after ++ rest)) :
    step s = .next { s with program := if lastFailed s then rest else after ++ rest } := by
  have run : step s = .next (if lastFailed s then { s with program := (after ++ rest).drop lines }
      else { s with program := after ++ rest }) := step_of_cons hp
  rw [run, ← hl, List.drop_left]
  split <;> rfl

section sequence
variable {s : State} {c : Byte × Nat × Nat} {f : List Byte} {cs : List (Byte × Nat × Nat)} {rest : List HostLine}
  {rx : TransportResult} {incoming : List TransportResult}

/-- Under STRICT_CONFIGURE the acknowledgement of a command decides whether the commands after it run. -/
theorem core_run_strictCommand (hc : Acknowledged c f) (ha : s.host.awaiting = none)
    (hi : s.host.incoming = rx :: incoming) (hp : s.program = commandSequence .strict (c :: cs) ++ rest) :
    Sys2Proof.core.run 5 s = .next (roundTrips (ackResponse s.ackPolicy) [(f, rx)] s
      (if (ackResponse s.ackPolicy rx).status = .ok then commandSequence .strict cs ++ rest else rest) incoming) := by
  obtain ⟨hf, hs⟩ := hc
  rw [commandSequence, List.append_assoc] at hp
  rw [core_run_add 1 (core_run_ackedCommand hf ha hi hs hp), core_run_succ 0 (step_stopOnError rfl rfl), core_run_zero,
    lastFailed_roundTrips]
  simp only [bne_iff_ne, ne_eq, ite_not]
  rfl

/-- A command after which the host goes on. -/
theorem core_run_command {mode : ConfigureMode} (hc : Acknowledged c f) (ha : s.host.awaiting = none)
    (hi : s.host.incoming = rx :: incoming) (hp : s.program = commandSequence mode (c :: cs) ++ rest)
    (hok : mode = .strict → (ackResponse s.ackPolicy rx).status = .ok) :
    Sys2Proof.core.run (linesPerCommand mode) s = .next
      (roundTrips (ackResponse s.ackPolicy) [(f, rx)] s (commandSequence mode cs ++ rest) incoming) := by
  cases mode with
  | strict =>
    have run := core_run_strictCommand hc ha hi hp
    rwa [if_pos (hok rfl)] at run
  | bestEffort =>
    obtain ⟨hf, hs⟩ := hc
    rw [commandSequence, List.append_assoc] at hp
    exact core_run_ackedCommand hf ha hi hs hp

variable {fs : List (List Byte)} {results : List TransportResult}

/-- R85: a sequence of commands runs to its end under best effort, and under STRICT_CONFIGURE when no acknowledgement fails. -/
theorem core_run_commandSequence {mode : ConfigureMode} (hcs : List.Forall₂ Acknowledged cs fs)
    (ha : s.host.awaiting = none) (hi : s.host.incoming = results ++ incoming) (hlen : results.length = cs.length)
    (hp : s.program = commandSequence mode cs ++ rest)
    (hok : mode = .strict → ∀ r ∈ results, (ackResponse s.ackPolicy r).status = .ok) :
    Sys2Proof.core.run (linesPerCommand mode * cs.length) s = .next
      (roundTrips (ackResponse s.ackPolicy) (fs.zip results) s rest incoming) := by
  induction hcs generalizing s results with
  | nil =>
    obtain rfl := List.length_eq_zero_iff.1 hlen
    obtain rfl : s.program = rest := hp
    obtain rfl : s.host.incoming = incoming := hi
    exact congrArg _ (roundTrips_nil _ ha).symm
  | @cons _ f _ _ hc _ ih =>
    match results, hlen with
    | r :: results, hlen =>
      have first := core_run_command hc ha hi hp fun hm => hok hm r List.mem_cons_self
      have others := ih (s := roundTrips (ackResponse s.ackPolicy) [(f, r)] s _ _) rfl rfl (Nat.succ.inj hlen) rfl
        fun hm r hr => hok hm r (List.mem_cons_of_mem _ hr)
      rw [List.length_cons, Nat.mul_succ, Nat.add_comm]
      exact (core_run_add _ first).trans (others.trans (congrArg _ (roundTrips_cons ..)))

/-- R85, D30: under STRICT_CONFIGURE a sequence of commands stops at the first acknowledgement that fails. -/
theorem core_run_strict_failing {failing : TransportResult} (hcs : List.Forall₂ Acknowledged cs fs)
    (ha : s.host.awaiting = none) (hi : s.host.incoming = results ++ failing :: incoming)
    (hlen : results.length < cs.length) (hp : s.program = commandSequence .strict cs ++ rest)
    (hok : ∀ r ∈ results, (ackResponse s.ackPolicy r).status = .ok)
    (hfail : (ackResponse s.ackPolicy failing).status ≠ .ok) :
    Sys2Proof.core.run (5 * (results.length + 1)) s = .next
      (roundTrips (ackResponse s.ackPolicy) (fs.zip (results ++ [failing])) s rest incoming) := by
  induction hcs generalizing s results with
  | nil => cases hlen
  | @cons _ f _ _ hc _ ih =>
    cases results with
    | nil =>
      have last := core_run_strictCommand hc ha hi hp
      rw [if_neg hfail] at last
      simpa using last
    | cons r results =>
      have first := core_run_command hc ha hi hp fun _ => hok r List.mem_cons_self
      have others := ih (s := roundTrips (ackResponse s.ackPolicy) [(f, r)] s _ _) rfl rfl
        (Nat.lt_of_succ_lt_succ hlen) rfl (fun r hr => hok r (List.mem_cons_of_mem _ hr)) hfail
      rw [List.length_cons, Nat.mul_succ, Nat.add_comm]
      exact (core_run_add _ first).trans (others.trans (congrArg _ (roundTrips_cons ..)))

end sequence

/-! ## The statements -/

/-- The command of a format's register is acknowledged. -/
theorem acknowledged_enableFormat (fmt : Format) (en : Bool) :
    Acknowledged (typeWrite, formatAddress fmt, enableValue en)
      (commandFrame typeWrite (formatAddress fmt) (enableValue en)) := by
  cases fmt <;> cases en <;> decide

/-- The four commands of CONFIGURE have the frames listed, and are acknowledged. -/
theorem acknowledged_configure : List.Forall₂ Acknowledged configureCommands configureFrames :=
  .cons (by decide) (.cons (by decide) (.cons (by decide) (.cons (by decide) .nil)))

/-- Settles O52: each is one command, whose frame is computed. -/
theorem pseudoOperationsAreOneRoundTrip : Obligations.PseudoOperationsAreOneRoundTrip := by
  intro s rest rx incoming ha hi
  have acked {c : Byte × Nat × Nat} {f : List Byte} (hc : Acknowledged c f) (hp : s.program = ackedCommand c ++ rest) :=
    core_run_ackedCommand hc.1 ha hi hc.2 hp
  refine ⟨fun hp => core_run_scannedCommand (by decide) ha hi (by decide) hp, fun hp => acked (by decide) hp,
    fun hp => acked (by decide) hp, fun fmt en hp => ?format, fun hp => acked (by decide) hp⟩
  case format =>
    have acknowledged := acknowledged_enableFormat fmt en
    exact ⟨_, answers_encode_of_eq s acknowledged.1, acked acknowledged hp⟩

/-- Settles O53: the four commands are a sequence, which runs to its end or to the first acknowledgement that fails. -/
theorem configureStopsOnlyWhenStrict : Obligations.ConfigureStopsOnlyWhenStrict := by
  intro s rest results incoming
  dsimp only
  intro ha
  exact ⟨fun hp hi hlen => core_run_commandSequence acknowledged_configure ha hi hlen hp nofun,
    fun hp hi hlen hok => core_run_commandSequence acknowledged_configure ha hi hlen hp fun _ => hok,
    fun failing hp hi hlen hok hfail => core_run_strict_failing acknowledged_configure ha hi hlen hp hok hfail⟩

end Sys2Proof.Machine
end
